-- ==== Sys2Proof/Word.lean ====
section
/-! DEFINITION. The data types of BLAKE2-CORE: the 64-bit word, the 8-bit micro-operation word, and the
128-bit vector register written, as the spec writes it, as a pair of lanes (spec/00_scope.md R7, R14). -/

namespace Sys2Proof

/-- A 64-bit unsigned word (spec/00_scope.md R7, parameter `W`). -/
abbrev Word := BitVec 64

/-- One 8-bit micro-operation word (spec/30_encoding.md R80). -/
abbrev Byte := BitVec 8

/-- A word address of the host register window: 6 bits (spec/20_memory.md R51, R56). -/
abbrev HostAddr := BitVec 6

/-- Sixteen words, `V[0..15]` or `MSG[0..15]`, in index order. -/
abbrev Words := Vector Word 16

/-- A 128-bit vector register as the pair `(lane 0, lane 1)`: lane 0 is bits 63:0, lane 1 is bits 127:64
(spec/00_scope.md R14, "the pair form is primary everywhere in this spec"). -/
structure VReg where
  l0 : Word
  l1 : Word
deriving DecidableEq, Repr, Inhabited

namespace VReg

/-- The register as one 128-bit value: lane 1 in the more significant half (spec/00_scope.md R14). -/
def toBits (x : VReg) : BitVec 128 := x.l1 ++ x.l0

/-- The pair form of a 128-bit value (spec/00_scope.md R14). -/
def ofBits (b : BitVec 128) : VReg := ⟨b.extractLsb' 0 64, b.extractLsb' 64 64⟩

/-- A one-argument operation applied to each lane by itself. -/
def map (f : Word → Word) (x : VReg) : VReg := ⟨f x.l0, f x.l1⟩

/-- A two-argument operation applied to each lane by itself. -/
def map2 (f : Word → Word → Word) (x y : VReg) : VReg := ⟨f x.l0 y.l0, f x.l1 y.l1⟩

end VReg

end Sys2Proof
end

