-- ==== Sys2Proof/Syntax.lean ====
section
/-! DEFINITION. The five micro-operations (spec/30_encoding.md R82), one constructor per row of
spec/opcode_table.json, with the operands as the encoding has them (R80, R81). -/

namespace Sys2Proof

/-- The half of a round a `SCHED` serves: the `h` bit (spec/30_encoding.md R80). -/
inductive Half where
  /-- `C`, `h` = 0: the column phase. -/
  | column
  /-- `D`, `h` = 1: the diagonal phase. -/
  | diagonal
deriving DecidableEq, Repr

/-- A micro-operation (spec/30_encoding.md R82). -/
inductive Instr where
  /-- `SCHED r, C` or `SCHED r, D`: the message scheduler (spec/42_message_schedule.md R143). `r` is the raw
  4-bit field; `Instr.wellFormed` asks `r <= 11`. -/
  | sched (r : BitVec 4) (h : Half)
  /-- `G1`: the first mixing step (spec/41_mixing_g.md R122). -/
  | g1
  /-- `G2`: the second mixing step (spec/41_mixing_g.md R123). -/
  | g2
  /-- `DIAG`: diagonalize (spec/43_row_reorder.md R161). -/
  | diag
  /-- `UNDIAG`: undiagonalize (spec/43_row_reorder.md R162). -/
  | undiag
deriving DecidableEq, Repr

/-- Assembler syntax (spec/30_encoding.md R88): mnemonic in capitals, operands separated by a comma. -/
def Instr.asm : Instr → String
  | .sched r .column => "SCHED " ++ toString r.toNat ++ ", C"
  | .sched r .diagonal => "SCHED " ++ toString r.toNat ++ ", D"
  | .g1 => "G1"
  | .g2 => "G2"
  | .diag => "DIAG"
  | .undiag => "UNDIAG"

end Sys2Proof
end

