-- ==== Sys2Proof/WellFormed.lean ====
section
/-! DEFINITION. Which terms of `Instr` stand for a legal micro-operation: the one constraint of the opcode map is
`r <= 11` of `SCHED` (spec/30_encoding.md R82, R85). -/

namespace Sys2Proof

/-- The constraint column of the opcode map (spec/30_encoding.md R82). -/
def Instr.wellFormed : Instr → Bool
  | .sched r _ => decide (r.toNat ≤ 11)
  | .g1 => true
  | .g2 => true
  | .diag => true
  | .undiag => true

end Sys2Proof
end

