-- ==== Sys2Proof/Decode.lean ====
section
/-! DEFINITION. The decoder, total on all 256 byte values and refusing the 228 reserved ones by name
(spec/30_encoding.md R82, R85), and after it the encoder, written from the same opcode map. -/

namespace Sys2Proof

/-- Why a byte is reserved: the three classes of spec/30_encoding.md R85. -/
inductive Reserved where
  /-- `SCHED` with `r` in 12..15. -/
  | schedRound
  /-- `opc` in 001, 010, 011, 100 with any of bits 4:0 non-zero. -/
  | operandBits
  /-- `opc` in 101, 110, 111. -/
  | opcode
deriving DecidableEq, Repr

/-- What the decoder says of a byte. -/
inductive Decoded where
  | instr (i : Instr)
  | reserved (why : Reserved)
deriving DecidableEq, Repr

/-- Field `opc`, bits 7:5 (spec/30_encoding.md R80). -/
def opcField (b : Byte) : BitVec 3 := b.extractLsb' 5 3

/-- Field `h`, bit 4 (spec/30_encoding.md R80). -/
def hField (b : Byte) : BitVec 1 := b.extractLsb' 4 1

/-- Field `r`, bits 3:0 (spec/30_encoding.md R80). -/
def rField (b : Byte) : BitVec 4 := b.extractLsb' 0 4

/-- `h` = 0 is the column phase, 1 the diagonal phase (spec/30_encoding.md R80). -/
def halfOfBit (h : BitVec 1) : Half := if h = 0 then .column else .diagonal

/-- An operation code without operands: bits 4:0 must be zero (spec/30_encoding.md R85). -/
def plainOp (b : Byte) (i : Instr) : Decoded :=
  if hField b = 0 ∧ rField b = 0 then .instr i else .reserved .operandBits

/-- The opcode map (spec/30_encoding.md R82, R85). -/
def decode (b : Byte) : Decoded :=
  match (opcField b).toNat with
  | 0 => if (rField b).toNat ≤ 11 then .instr (.sched (rField b) (halfOfBit (hField b))) else .reserved .schedRound
  | 1 => plainOp b .g1
  | 2 => plainOp b .g2
  | 3 => plainOp b .diag
  | 4 => plainOp b .undiag
  | _ => .reserved .opcode

/-- A byte the decoder refuses (spec/30_encoding.md R85). -/
def isReserved (b : Byte) : Bool :=
  match decode b with
  | .instr _ => false
  | .reserved _ => true

/-- The `h` bit of a phase (spec/30_encoding.md R80). -/
def Half.bit : Half → BitVec 1
  | .column => 0
  | .diagonal => 1

/-- A byte from its three fields (format `U`, spec/30_encoding.md R80). -/
def formatU (opc : BitVec 3) (h : BitVec 1) (r : BitVec 4) : Byte := (opc ++ h) ++ r

/-- The pattern column of the opcode map (spec/30_encoding.md R82). -/
def encode : Instr → Byte
  | .sched r h => formatU 0b000 h.bit r
  | .g1 => formatU 0b001 0 0
  | .g2 => formatU 0b010 0 0
  | .diag => formatU 0b011 0 0
  | .undiag => formatU 0b100 0 0

/-- One row of the machine-readable opcode table (spec/opcode_table.json). -/
structure OpcodeRow where
  mnemonic : String
  mask : Byte
  pattern : Byte
deriving DecidableEq, Repr

/-- The mask and match columns of the opcode map (spec/30_encoding.md R82). -/
def opcodeTable : List OpcodeRow :=
  [⟨"SCHED", 0xE0, 0x00⟩, ⟨"G1", 0xFF, 0x20⟩, ⟨"G2", 0xFF, 0x40⟩, ⟨"DIAG", 0xFF, 0x60⟩, ⟨"UNDIAG", 0xFF, 0x80⟩]

/-- The byte fits the row: `(b and mask) = match` (spec/30_encoding.md R82). -/
def OpcodeRow.fits (row : OpcodeRow) (b : Byte) : Bool := b &&& row.mask == row.pattern

/-- The row of the opcode table an instruction belongs to. -/
def Instr.row : Instr → OpcodeRow
  | .sched _ _ => ⟨"SCHED", 0xE0, 0x00⟩
  | .g1 => ⟨"G1", 0xFF, 0x20⟩
  | .g2 => ⟨"G2", 0xFF, 0x40⟩
  | .diag => ⟨"DIAG", 0xFF, 0x60⟩
  | .undiag => ⟨"UNDIAG", 0xFF, 0x80⟩

/-- The first byte of an instruction whose low `nbits` bits are those of `w` and whose other bits are 0: the one
8-bit word a micro-operation has (spec/30_encoding.md R80). -/
def tableByte (nbits w : Nat) : Byte := BitVec.ofNat 8 (w % 2 ^ nbits)

/-- The decoder's answer on a table word; none where the byte is reserved. -/
def decodeTableWord (nbits w : Nat) : Option Instr :=
  match decode (tableByte nbits w) with
  | .instr i => some i
  | .reserved _ => none

end Sys2Proof
end

