-- ==== Sys2Proof/Config.lean ====
section
/-! DEFINITION. What the hardware fixes outside its state: the host window's addresses and the structural
constants, and the one source of free values (128-bit values the spec leaves unspecified). -/

namespace Sys2Proof.Config

/-- FREE VALUE (spec/93_implementation_defined.md U1, U2, U14). The value a data register takes at draw number
`n`: at reset (spec/10_state.md R34, "a fixed but unknown 128-bit value per register, which a model draws once at
reset and may assume nothing about") and in `T0`, `T1` after `DIAG` or `UNDIAG` (spec/10_state.md R27). It has
no body: nothing can prove a value of it. Assumption log 1 and 2. -/
opaque freeVec : Nat → VReg

/-- The last word address of `V[0..15]`, which begins at 0x00 (spec/20_memory.md R52). -/
def vLast : HostAddr := 0x0F

/-- The last word address of `MSG[0..15]`, which begins at 0x10 (spec/20_memory.md R52). -/
def msgLast : HostAddr := 0x1F

/-- The command register `CTRL` (spec/20_memory.md R52). -/
def ctrlAddr : HostAddr := 0x20

/-- The status register `STATUS` (spec/20_memory.md R52). -/
def statusAddr : HostAddr := 0x21

/-- The number of rounds (spec/00_scope.md R7, `NROUND`). -/
def nRound : Nat := 12

/-- The address of the last ROM entry (spec/44_round_driver.md R182). -/
def lastUpc : BitVec 7 := 95

end Sys2Proof.Config
end

