-- ==== Sys2Proof/Machine/State.lean ====
section
/-! DEFINITION. The state of one BLAKE2-CORE instance, whole (spec/10_state.md R20), as plain data, with the model's
own scheduling fields; the reasons a step can stop; and the state after reset (spec/10_state.md R34). -/

namespace Sys2Proof.Machine

/-- The eight row registers: row `k` is a low and a high register of two words each (spec/10_state.md R20, R22). -/
structure Rows where
  r1l : VReg
  r1h : VReg
  r2l : VReg
  r2h : VReg
  r3l : VReg
  r3h : VReg
  r4l : VReg
  r4h : VReg
deriving DecidableEq, Repr

/-- The eight message registers `MW0`..`MW7` (spec/10_state.md R20, R24). -/
structure MsgRegs where
  mw0 : VReg
  mw1 : VReg
  mw2 : VReg
  mw3 : VReg
  mw4 : VReg
  mw5 : VReg
  mw6 : VReg
  mw7 : VReg
deriving DecidableEq, Repr

/-- The operand registers `B0`..`B3`, the message scheduler's output (spec/10_state.md R26). -/
structure Operands where
  b0 : VReg
  b1 : VReg
  b2 : VReg
  b3 : VReg
deriving DecidableEq, Repr

/-- A host transaction (spec/20_memory.md R53, R54). `START` is `write 0x20 d` with `d[0]` = 1
(spec/30_encoding.md R83). -/
inductive HostCmd where
  /-- `HREAD(a)`. -/
  | read (a : HostAddr)
  /-- `HWRITE(a, d)`. -/
  | write (a : HostAddr) (d : Word)
deriving DecidableEq, Repr

/-- One of the events that may move the machine (spec/70_reset_and_hazards.md R260): the sequencer's turn, a host
transaction, the reset input. -/
inductive Event where
  /-- The sequencer takes its step if it has one. -/
  | sequencer
  /-- The host performs one transaction. -/
  | host (c : HostCmd)
  /-- `rst` is asserted. -/
  | reset
deriving DecidableEq, Repr

/-- What an `HREAD` returned to the host: the address it named and the value it got. -/
structure Reply where
  addr : HostAddr
  value : Word
deriving DecidableEq, Repr

/-- The whole state (spec/10_state.md R20), then the model's own fields `agenda`, `replies`, `freeNext`. -/
structure State where
  /-- `R1L`..`R4H`, the working state `V[0..15]`. -/
  rows : Rows
  /-- `MW0`..`MW7`, the message block `MSG[0..15]`. -/
  msg : MsgRegs
  /-- `B0`..`B3`. -/
  ops : Operands
  /-- `T0`, scratch of the row reordering (spec/10_state.md R27). -/
  t0 : VReg
  /-- `T1`, scratch of the row reordering (spec/10_state.md R27). -/
  t1 : VReg
  /-- `UPC`, the micro-program counter, `RND` in bits 6:3 and `STEP` in bits 2:0 (spec/10_state.md R28). -/
  upc : BitVec 7
  /-- `BUSY`: an invocation is running (spec/10_state.md R20, R29). -/
  busy : Bool
  /-- `DONE`: an invocation has completed since the last `START` or reset (spec/10_state.md R20, R29). -/
  done : Bool
  /-- MODEL'S OWN (log 4). The order in which the two agents and the reset input move, oldest first: the
  interleaving the spec leaves open (spec/20_memory.md R61, spec/60_exceptions.md R235). When it is empty only
  the sequencer moves. -/
  agenda : List Event
  /-- MODEL'S OWN (log 6). What the host's `HREAD`s returned, oldest first. -/
  replies : List Reply
  /-- MODEL'S OWN (log 3). The number of the next draw from `Config.freeVec`. -/
  freeNext : Nat
deriving DecidableEq, Repr

/-- The faults of the hardware: none. "The complete list of exception causes is empty" (spec/60_exceptions.md
R231); "The hardware raises no synchronous exception" (R230). -/
inductive Fault where
deriving DecidableEq, Repr

/-- The reasons the model gives a step no meaning. None of them can occur on the ROM from a legal state. -/
inductive Refusal where
  /-- Raised by the arm of an instruction that has no meaning in the model yet: none is left. Safe. -/
  | notModelled (mnemonic : String)
  /-- Raised by `runMicro` on a test program that holds a reserved byte, and by a sequencer step that would decode
  one, which the ROM never holds (spec/30_encoding.md R85, spec/60_exceptions.md R233). Safe. -/
  | reservedByte (b : Byte)
  /-- Raised by `SCHED` on a round field of 12 to 15, which is a reserved encoding (spec/42_message_schedule.md
  R143, spec/30_encoding.md R85). Safe. -/
  | reservedRound (r : BitVec 4)
  /-- Raised by a sequencer step at a `UPC` of 96 to 127, values the spec says are never reached
  (spec/10_state.md R28) and where the ROM has no entry. Safe. -/
  | noRomEntry (upc : BitVec 7)
deriving DecidableEq, Repr

/-- The reset state whose data registers are the draws `n`, `n + 1`, … (spec/10_state.md R34): `UPC`, `BUSY` and
`DONE` are 0, every data register is unspecified. -/
def State.resetDraw (n : Nat) : State where
  rows :=
    { r1l := Config.freeVec n
      r1h := Config.freeVec (n + 1)
      r2l := Config.freeVec (n + 2)
      r2h := Config.freeVec (n + 3)
      r3l := Config.freeVec (n + 4)
      r3h := Config.freeVec (n + 5)
      r4l := Config.freeVec (n + 6)
      r4h := Config.freeVec (n + 7) }
  msg :=
    { mw0 := Config.freeVec (n + 8)
      mw1 := Config.freeVec (n + 9)
      mw2 := Config.freeVec (n + 10)
      mw3 := Config.freeVec (n + 11)
      mw4 := Config.freeVec (n + 12)
      mw5 := Config.freeVec (n + 13)
      mw6 := Config.freeVec (n + 14)
      mw7 := Config.freeVec (n + 15) }
  ops :=
    { b0 := Config.freeVec (n + 16)
      b1 := Config.freeVec (n + 17)
      b2 := Config.freeVec (n + 18)
      b3 := Config.freeVec (n + 19) }
  t0 := Config.freeVec (n + 20)
  t1 := Config.freeVec (n + 21)
  upc := 0
  busy := false
  done := false
  agenda := []
  replies := []
  freeNext := n + 22

/-- The machine right after reset (spec/10_state.md R34, spec/70_reset_and_hazards.md R260). -/
def State.reset : State := State.resetDraw 0

end Sys2Proof.Machine
end

