-- ==== Sys2Proof/Machine/Rotation.lean ====
section
/-! DEFINITION. The rotation primitive (spec/40_rotation.md): its definition by shift and combine, and the shortcut
forms an implementation tier may use instead (R105 to R108). -/

namespace Sys2Proof.Machine

/-- The only rotation amounts of the hardware (spec/40_rotation.md R102). -/
inductive RotAmount where
  | by32
  | by24
  | by16
  | by63
deriving DecidableEq, Repr

/-- The amount in bits (spec/40_rotation.md R102). -/
def RotAmount.bits : RotAmount → Nat
  | .by32 => 32
  | .by24 => 24
  | .by16 => 16
  | .by63 => 63

/-- The formula of spec/40_rotation.md R100 on a 64-bit word, for `n` in 1..63 (R103, R109: amounts 0 and 64 are
never used and mean nothing here). -/
def shiftCombine (x : Word) (n : Nat) : Word := (x >>> n) ||| (x <<< (64 - n))

/-- `ROTR64(x, n)` on the four amounts (spec/40_rotation.md R100). -/
def rotr64 (x : Word) (a : RotAmount) : Word := shiftCombine x a.bits

/-- `byte_i(x)` = `x[8i+7 : 8i]` (spec/40_rotation.md R106). -/
def byteOf (x : Word) (i : Nat) : Byte := x.extractLsb' (8 * i) 8

/-- A word from its eight bytes, byte 0 the least significant. -/
def wordOfBytes (b0 b1 b2 b3 b4 b5 b6 b7 : Byte) : Word :=
  ((((((b7 ++ b6) ++ b5) ++ b4) ++ b3) ++ b2) ++ b1) ++ b0

/-- The byte-shuffle form of the rotation by 24: source bytes 3, 4, 5, 6, 7, 0, 1, 2 (spec/40_rotation.md R106). -/
def byteShuffle24 (x : Word) : Word :=
  wordOfBytes (byteOf x 3) (byteOf x 4) (byteOf x 5) (byteOf x 6) (byteOf x 7) (byteOf x 0) (byteOf x 1) (byteOf x 2)

/-- The byte-shuffle form of the rotation by 16: source bytes 2, 3, 4, 5, 6, 7, 0, 1 (spec/40_rotation.md R106). -/
def byteShuffle16 (x : Word) : Word :=
  wordOfBytes (byteOf x 2) (byteOf x 3) (byteOf x 4) (byteOf x 5) (byteOf x 6) (byteOf x 7) (byteOf x 0) (byteOf x 1)

/-- The half-swap form of the rotation by 32: `{x[31:0], x[63:32]}` (spec/40_rotation.md R107). -/
def halfSwap (x : Word) : Word := x.extractLsb' 0 32 ++ x.extractLsb' 32 32

/-- The doubling form of the rotation by 63: `(x >> 63) xor (x +64 x)` (spec/40_rotation.md R108). -/
def doubling (x : Word) : Word := (x >>> 63) ^^^ (x + x)

end Sys2Proof.Machine
end

