-- ==== Sys2Proof/Machine/Ops.lean ====
section
/-! DEFINITION. The shared operations: the three lane-wise data operations (spec/41_mixing_g.md R120), the updates
of the state's parts, the draws of unspecified values, and the reset event. There is no memory operation and no
taking of an exception here: the hardware has neither (spec/20_memory.md R50, spec/60_exceptions.md R230, R236). -/

namespace Sys2Proof.Machine

/-- `VADD(X, Y)`: each lane modulo 2^64, no carry across lanes (spec/41_mixing_g.md R120). -/
def vadd (x y : VReg) : VReg := VReg.map2 (· + ·) x y

/-- `VXOR(X, Y)` (spec/41_mixing_g.md R120). -/
def vxor (x y : VReg) : VReg := VReg.map2 (· ^^^ ·) x y

/-- `VROTR(X, n)`: each lane rotated by itself (spec/40_rotation.md R101). -/
def vrotr (x : VReg) (a : RotAmount) : VReg := VReg.map (rotr64 · a) x

/-- Writes the eight row registers and nothing else. -/
def State.setRows (s : State) (r : Rows) : State := { s with rows := r }

/-- Writes the message registers and nothing else. -/
def State.setMsg (s : State) (m : MsgRegs) : State := { s with msg := m }

/-- Writes `B0`..`B3` and nothing else. -/
def State.setOps (s : State) (b : Operands) : State := { s with ops := b }

/-- Writes `UPC`, `BUSY` and `DONE` and nothing else. -/
def State.setControl (s : State) (upc : BitVec 7) (busy done : Bool) : State :=
  { s with upc := upc, busy := busy, done := done }

/-- Writes the model's own agenda and nothing else. -/
def State.setAgenda (s : State) (l : List Event) : State := { s with agenda := l }

/-- Hands a value to the host: the model's own record of what `HREAD`s returned. -/
def State.addReply (s : State) (a : HostAddr) (v : Word) : State := { s with replies := s.replies ++ [⟨a, v⟩] }

/-- `T0, T1 <- unspecified` (spec/43_row_reorder.md R161, R162): two fresh free values. -/
def State.clobberScratch (s : State) : State :=
  { s with t0 := Config.freeVec s.freeNext, t1 := Config.freeVec (s.freeNext + 1), freeNext := s.freeNext + 2 }

/-- The reset event (spec/70_reset_and_hazards.md R260, R262): the state is a reset state with fresh draws in every
data register, whatever it was. The host's record and the agenda are not the core's and stay. -/
def State.applyReset (s : State) : State :=
  { State.resetDraw s.freeNext with agenda := s.agenda, replies := s.replies }

end Sys2Proof.Machine
end

