-- ==== Sys2Proof/Machine/Operands.lean ====
section
/-! DEFINITION. The names `V[i]` and `MSG[i]` for lanes of the row and message registers (spec/10_state.md R22 to
R24), and the view of the rows by position (spec/00_scope.md R18, spec/41_mixing_g.md R124). -/

namespace Sys2Proof.Machine

/-- Unpack: the words `V[0..15]` in the lanes of the row registers (the table of spec/10_state.md R22). -/
def Rows.words (r : Rows) : Words :=
  #v[r.r1l.l0, r.r1l.l1, r.r1h.l0, r.r1h.l1,
     r.r2l.l0, r.r2l.l1, r.r2h.l0, r.r2h.l1,
     r.r3l.l0, r.r3l.l1, r.r3h.l0, r.r3h.l1,
     r.r4l.l0, r.r4l.l1, r.r4h.l0, r.r4h.l1]

/-- Pack: the row registers that hold the words `v` (the table of spec/10_state.md R22, read the other way). -/
def Rows.ofWords (v : Words) : Rows where
  r1l := ⟨v[0], v[1]⟩
  r1h := ⟨v[2], v[3]⟩
  r2l := ⟨v[4], v[5]⟩
  r2h := ⟨v[6], v[7]⟩
  r3l := ⟨v[8], v[9]⟩
  r3h := ⟨v[10], v[11]⟩
  r4l := ⟨v[12], v[13]⟩
  r4h := ⟨v[14], v[15]⟩

/-- A read of `V[i]` (spec/10_state.md R23). -/
def Rows.word (r : Rows) (i : Fin 16) : Word := r.words[i]

/-- A write of `V[i]`: it replaces that lane (spec/10_state.md R23). -/
def Rows.setWord (r : Rows) (i : Fin 16) (w : Word) : Rows := Rows.ofWords (r.words.set i w)

/-- The words `MSG[0..15]`: `MWk` holds `MSG[2k]` in lane 0 and `MSG[2k+1]` in lane 1 (spec/10_state.md R24). -/
def MsgRegs.words (m : MsgRegs) : Words :=
  #v[m.mw0.l0, m.mw0.l1, m.mw1.l0, m.mw1.l1, m.mw2.l0, m.mw2.l1, m.mw3.l0, m.mw3.l1,
     m.mw4.l0, m.mw4.l1, m.mw5.l0, m.mw5.l1, m.mw6.l0, m.mw6.l1, m.mw7.l0, m.mw7.l1]

/-- The message registers that hold the words `v` (spec/10_state.md R24). -/
def MsgRegs.ofWords (v : Words) : MsgRegs where
  mw0 := ⟨v[0], v[1]⟩
  mw1 := ⟨v[2], v[3]⟩
  mw2 := ⟨v[4], v[5]⟩
  mw3 := ⟨v[6], v[7]⟩
  mw4 := ⟨v[8], v[9]⟩
  mw5 := ⟨v[10], v[11]⟩
  mw6 := ⟨v[12], v[13]⟩
  mw7 := ⟨v[14], v[15]⟩

/-- A read of `MSG[i]` (spec/10_state.md R24). -/
def MsgRegs.word (m : MsgRegs) (i : Fin 16) : Word := m.words[i]

/-- A write of `MSG[i]`: it replaces that lane (spec/10_state.md R24). -/
def MsgRegs.setWord (m : MsgRegs) (i : Fin 16) (w : Word) : MsgRegs := MsgRegs.ofWords (m.words.set i w)

/-- Lane `i mod 2` of a vector register (spec/10_state.md R22). -/
def laneOf (x : VReg) (i : Nat) : Word := if i % 2 = 0 then x.l0 else x.l1

/-- The register of row `k` + 1, its low half or its high half (spec/10_state.md R22). -/
def Rows.reg (r : Rows) (k : Fin 4) (high : Bool) : VReg :=
  match k, high with
  | 0, false => r.r1l
  | 0, true => r.r1h
  | 1, false => r.r2l
  | 1, true => r.r2h
  | 2, false => r.r3l
  | 2, true => r.r3h
  | 3, false => r.r4l
  | 3, true => r.r4h

/-- The message register `MWk` (spec/10_state.md R24). -/
def MsgRegs.reg (m : MsgRegs) (k : Fin 8) : VReg :=
  #v[m.mw0, m.mw1, m.mw2, m.mw3, m.mw4, m.mw5, m.mw6, m.mw7][k]

/-- The working state `V[0..15]` of a machine. -/
def State.v (s : State) : Words := s.rows.words

/-- The message block `MSG[0..15]` of a machine. -/
def State.m (s : State) : Words := s.msg.words

/-- The index of the word at position `j` of row `k` + 1 (spec/10_state.md R22). -/
def posIndex (k j : Fin 4) : Fin 16 := ⟨4 * k.val + j.val, by omega⟩

/-- The word at position `j` of row `k` + 1: rows are numbered 1 to 4 in the spec, 0 to 3 here
(spec/00_scope.md R18). -/
def Rows.at (r : Rows) (k j : Fin 4) : Word := r.word (posIndex k j)

/-- The message word that the operand pair `(X0, X1)` brings to position `j` (spec/41_mixing_g.md R124). -/
def operandAt (x0 x1 : VReg) (j : Fin 4) : Word :=
  #v[x0.l0, x0.l1, x1.l0, x1.l1][j]

/-- `RND` = `UPC[6:3]` (spec/10_state.md R28). -/
def rndField (upc : BitVec 7) : BitVec 4 := upc.extractLsb' 3 4

/-- `STEP` = `UPC[2:0]` (spec/10_state.md R28). -/
def stepField (upc : BitVec 7) : BitVec 3 := upc.extractLsb' 0 3

end Sys2Proof.Machine
end

