-- ==== Sys2Proof/Machine/Flags.lean ====
section
/-! DEFINITION. The status bits. The hardware has no flags, condition codes or predicates, and no operation on data
computes one (spec/10_state.md R30). `BUSY` and `DONE` are sequencer status: here are the `STATUS` word, the output
`done`, and what `START` and the sequencer's step make of the two bits. -/

namespace Sys2Proof.Machine

/-- The bit as one binary digit. -/
def bit (b : Bool) : BitVec 1 := if b then 1 else 0

/-- `STATUS`, word address 0x21: `zext_64({DONE, BUSY})` (spec/10_state.md R29, spec/20_memory.md R53). -/
def statusWord (s : State) : Word := (bit s.done ++ bit s.busy).setWidth 64

/-- The output signal `done`, a level equal to `STATUS.DONE` at all times (spec/60_exceptions.md R234). -/
def State.doneOut (s : State) : Bool := s.done

/-- `START`: accepted when `BUSY` = 0, dropped without effect otherwise (spec/45_host_commands.md R211). -/
def start (s : State) : State :=
  if s.busy then s else s.setControl 0 true false

/-- What the sequencer's step makes of `UPC`, `BUSY` and `DONE` after the micro-operation at `u`
(spec/44_round_driver.md R182). -/
def advance (u : BitVec 7) (s : State) : State :=
  if u = Config.lastUpc then s.setControl 0 false true else s.setControl (u + 1) s.busy s.done

end Sys2Proof.Machine
end

