-- ==== Sys2Proof/Machine/Mixing.lean ====
section
/-! DEFINITION. The mixing primitive: `GSTEP` (spec/41_mixing_g.md R121) and the micro-operations `G1` (R122) and
`G2` (R123). -/

namespace Sys2Proof.Machine

/-- `GSTEP(A, B, X0, X1)`: four lines, each reading the registers as the lines before it left them
(spec/41_mixing_g.md R121). -/
def gstep (a b : RotAmount) (x0 x1 : VReg) (r : Rows) : Rows :=
  let r := { r with r1l := vadd (vadd r.r1l r.r2l) x0, r1h := vadd (vadd r.r1h r.r2h) x1 }
  let r := { r with r4l := vrotr (vxor r.r4l r.r1l) a, r4h := vrotr (vxor r.r4h r.r1h) a }
  let r := { r with r3l := vadd r.r3l r.r4l, r3h := vadd r.r3h r.r4h }
  { r with r2l := vrotr (vxor r.r2l r.r3l) b, r2h := vrotr (vxor r.r2h r.r3h) b }

/-- `G1`: `GSTEP(32, 24, B0, B1)` (spec/41_mixing_g.md R122). -/
def execG1 (s : State) : Host.Outcome State Fault Refusal :=
  .next (s.setRows (gstep .by32 .by24 s.ops.b0 s.ops.b1 s.rows))

/-- `G2`: `GSTEP(16, 63, B2, B3)` (spec/41_mixing_g.md R123). -/
def execG2 (s : State) : Host.Outcome State Fault Refusal :=
  .next (s.setRows (gstep .by16 .by63 s.ops.b2 s.ops.b3 s.rows))

end Sys2Proof.Machine
end

