-- ==== Sys2Proof/Machine/Reorder.lean ====
section
/-! DEFINITION. The row reordering: `DIAG` (spec/43_row_reorder.md R161) and `UNDIAG` (R162), as parallel assignments
of whole 64-bit lanes. -/

namespace Sys2Proof.Machine

/-- The row registers after `DIAG`; all right-hand sides read the rows before (spec/43_row_reorder.md R161). -/
def diagRows (r : Rows) : Rows :=
  { r with
    r2l := ⟨r.r2l.l1, r.r2h.l0⟩, r2h := ⟨r.r2h.l1, r.r2l.l0⟩
    r3l := r.r3h, r3h := r.r3l
    r4l := ⟨r.r4h.l1, r.r4l.l0⟩, r4h := ⟨r.r4l.l1, r.r4h.l0⟩ }

/-- The row registers after `UNDIAG`; all right-hand sides read the rows before (spec/43_row_reorder.md R162). -/
def undiagRows (r : Rows) : Rows :=
  { r with
    r2l := ⟨r.r2h.l1, r.r2l.l0⟩, r2h := ⟨r.r2l.l1, r.r2h.l0⟩
    r3l := r.r3h, r3h := r.r3l
    r4l := ⟨r.r4l.l1, r.r4h.l0⟩, r4h := ⟨r.r4h.l1, r.r4l.l0⟩ }

/-- `DIAG` (spec/43_row_reorder.md R161); `T0`, `T1` become unspecified. -/
def execDiag (s : State) : Host.Outcome State Fault Refusal :=
  .next (s.clobberScratch.setRows (diagRows s.rows))

/-- `UNDIAG` (spec/43_row_reorder.md R162); `T0`, `T1` become unspecified. -/
def execUndiag (s : State) : Host.Outcome State Fault Refusal :=
  .next (s.clobberScratch.setRows (undiagRows s.rows))

end Sys2Proof.Machine
end

