-- ==== Sys2Proof/Machine/Schedule.lean ====
section
/-! DEFINITION. The message scheduler: the table `SIGMA` (spec/42_message_schedule.md R140) and the micro-operation
`SCHED` (R143). -/

namespace Sys2Proof.Machine

/-- `SIGMA`, twelve rows of sixteen indices (spec/42_message_schedule.md R140). -/
def sigma : Vector (Vector (Fin 16) 16) 12 :=
  #v[#v[0, 1, 2, 3, 4, 5, 6, 7, 8, 9, 10, 11, 12, 13, 14, 15],
     #v[14, 10, 4, 8, 9, 15, 13, 6, 1, 12, 0, 2, 11, 7, 5, 3],
     #v[11, 8, 12, 0, 5, 2, 15, 13, 10, 14, 3, 6, 7, 1, 9, 4],
     #v[7, 9, 3, 1, 13, 12, 11, 14, 2, 6, 5, 10, 4, 0, 15, 8],
     #v[9, 0, 5, 7, 2, 4, 10, 15, 14, 1, 11, 12, 6, 8, 3, 13],
     #v[2, 12, 6, 10, 0, 11, 8, 3, 4, 13, 7, 5, 15, 14, 1, 9],
     #v[12, 5, 1, 15, 14, 13, 4, 10, 0, 7, 6, 3, 9, 2, 8, 11],
     #v[13, 11, 7, 14, 12, 1, 3, 9, 5, 0, 15, 4, 8, 6, 2, 10],
     #v[6, 15, 14, 9, 11, 3, 0, 8, 12, 2, 13, 7, 1, 4, 10, 5],
     #v[10, 2, 8, 4, 7, 6, 1, 5, 15, 11, 9, 14, 3, 12, 13, 0],
     #v[0, 1, 2, 3, 4, 5, 6, 7, 8, 9, 10, 11, 12, 13, 14, 15],
     #v[14, 10, 4, 8, 9, 15, 13, 6, 1, 12, 0, 2, 11, 7, 5, 3]]

/-- `8 * h` (spec/42_message_schedule.md R143). -/
def halfBase : Half → Nat
  | .column => 0
  | .diagonal => 8

/-- `SIGMA[r][8h + k]`, the `k`-th index of a half of row `r` (spec/42_message_schedule.md R143). -/
def sigmaAt (r : Fin 12) (h : Half) (k : Fin 8) : Fin 16 :=
  sigma[r][halfBase h + k.val]'(by cases h <;> simp only [halfBase] <;> omega)

/-- The operands that `SCHED r, h` selects (spec/42_message_schedule.md R143). -/
def schedOperands (r : Fin 12) (h : Half) (m : MsgRegs) : Operands where
  b0 := ⟨m.word (sigmaAt r h 0), m.word (sigmaAt r h 2)⟩
  b1 := ⟨m.word (sigmaAt r h 4), m.word (sigmaAt r h 6)⟩
  b2 := ⟨m.word (sigmaAt r h 1), m.word (sigmaAt r h 3)⟩
  b3 := ⟨m.word (sigmaAt r h 5), m.word (sigmaAt r h 7)⟩

/-- `SCHED r, h` (spec/42_message_schedule.md R143). A round field of 12 to 15 is a reserved encoding and is refused
by name (spec/30_encoding.md R85). -/
def execSched (r : BitVec 4) (h : Half) (s : State) : Host.Outcome State Fault Refusal :=
  if hr : r.toNat < 12 then .next (s.setOps (schedOperands ⟨r.toNat, hr⟩ h s.msg))
  else .refused (.reservedRound r)

end Sys2Proof.Machine
end

