-- ==== Sys2Proof/Machine/Dispatch.lean ====
section
/-! DEFINITION. Which meaning each micro-operation has: one arm per constructor of `Instr`. -/

namespace Sys2Proof.Machine

def exec (i : Instr) (s : State) : Host.Outcome State Fault Refusal :=
  match i with
  | .sched r h => Sys2Proof.Machine.execSched r h s
  | .g1 => Sys2Proof.Machine.execG1 s
  | .g2 => Sys2Proof.Machine.execG2 s
  | .diag => Sys2Proof.Machine.execDiag s
  | .undiag => Sys2Proof.Machine.execUndiag s

end Sys2Proof.Machine
end

