-- ==== Sys2Proof/Machine/Sequencer.lean ====
section
/-! DEFINITION. The sequencer: the micro-program ROM (spec/30_encoding.md R90, spec/44_round_driver.md R181), its fetch,
and the sequencer step (spec/44_round_driver.md R182). -/

namespace Sys2Proof.Machine

/-- The ROM image, one round a line (spec/30_encoding.md R90). No agent can write it (spec/20_memory.md R66). -/
def rom : List Byte :=
  [0x00, 0x20, 0x40, 0x60, 0x10, 0x20, 0x40, 0x80] ++
  [0x01, 0x20, 0x40, 0x60, 0x11, 0x20, 0x40, 0x80] ++
  [0x02, 0x20, 0x40, 0x60, 0x12, 0x20, 0x40, 0x80] ++
  [0x03, 0x20, 0x40, 0x60, 0x13, 0x20, 0x40, 0x80] ++
  [0x04, 0x20, 0x40, 0x60, 0x14, 0x20, 0x40, 0x80] ++
  [0x05, 0x20, 0x40, 0x60, 0x15, 0x20, 0x40, 0x80] ++
  [0x06, 0x20, 0x40, 0x60, 0x16, 0x20, 0x40, 0x80] ++
  [0x07, 0x20, 0x40, 0x60, 0x17, 0x20, 0x40, 0x80] ++
  [0x08, 0x20, 0x40, 0x60, 0x18, 0x20, 0x40, 0x80] ++
  [0x09, 0x20, 0x40, 0x60, 0x19, 0x20, 0x40, 0x80] ++
  [0x0A, 0x20, 0x40, 0x60, 0x1A, 0x20, 0x40, 0x80] ++
  [0x0B, 0x20, 0x40, 0x60, 0x1B, 0x20, 0x40, 0x80]

/-- The byte the sequencer fetches at `upc`: `ROM[upc]`, none at 96 to 127 (spec/44_round_driver.md R182). -/
def fetch (upc : BitVec 7) : Option Byte := rom[upc.toNat]?

/-- The loop form of the micro-program: the byte generated from `UPC` = `{RND, STEP}` instead of stored
(spec/30_encoding.md R90, spec/44_round_driver.md R189). -/
def loopByte (upc : BitVec 7) : Byte :=
  match (stepField upc).toNat with
  | 0 => formatU 0b000 0 (rndField upc)
  | 4 => formatU 0b000 1 (rndField upc)
  | 3 => formatU 0b011 0 0
  | 7 => formatU 0b100 0 0
  | 1 => formatU 0b001 0 0
  | 5 => formatU 0b001 0 0
  | _ => formatU 0b010 0 0

/-- The address of the first ROM entry that holds the byte `b`; none where `b` is not in the ROM. -/
def romIndexOf (b : Byte) : Option Nat := rom.findIdx? (· == b)

/-- `SEQSTEP`: fetch, decode, execute, then `UPC`, `BUSY`, `DONE` (spec/44_round_driver.md R182). The refusals are for
a `UPC` the spec says is never reached and for a byte the ROM never holds. -/
def seqStep (s : State) : Host.Outcome State Fault Refusal :=
  match fetch s.upc with
  | none => .refused (.noRomEntry s.upc)
  | some b =>
    match decode b with
    | .reserved _ => .refused (.reservedByte b)
    | .instr i =>
      match exec i s with
      | .next t => .next (advance s.upc t)
      | .fault f => .fault f
      | .refused r => .refused r

/-- The sequencer's turn: it has a step exactly when `BUSY` = 1; otherwise it does nothing
(spec/44_round_driver.md R182). -/
def seqTurn (s : State) : Host.Outcome State Fault Refusal :=
  if s.busy then seqStep s else .next s

end Sys2Proof.Machine
end

