-- ==== Sys2Proof/Machine/HostPort.lean ====
section
/-! DEFINITION. The host register window (spec/20_memory.md R52) and its two transactions `HREAD` (R53) and `HWRITE`
(R54); the events that move the machine. -/

namespace Sys2Proof.Machine

/-- Which of sixteen words an address of the first or the second sixteen names: bits 3:0 (spec/20_memory.md R52,
`0x00 + i` and `0x10 + i`). -/
def wordIndex (a : HostAddr) : Fin 16 := ⟨a.toNat % 16, Nat.mod_lt _ (by decide)⟩

/-- The value `HREAD(a)` returns (spec/20_memory.md R53). While `BUSY` = 1 a read of `V[i]` returns the lane as it
stands at the boundary at which the read lands (R60). -/
def hread (s : State) (a : HostAddr) : Word :=
  if a ≤ Config.vLast then s.rows.word (wordIndex a)
  else if a ≤ Config.msgLast then s.msg.word (wordIndex a)
  else if a = Config.ctrlAddr then 0
  else if a = Config.statusAddr then statusWord s
  else 0

/-- `HWRITE(a, d)` (spec/20_memory.md R54): dropped while `BUSY` = 1 (R60); `V`, `MSG`, or the `START` command;
`STATUS` and the reserved addresses ignore it (R59). -/
def hwrite (s : State) (a : HostAddr) (d : Word) : State :=
  if s.busy then s
  else if a ≤ Config.vLast then s.setRows (s.rows.setWord (wordIndex a) d)
  else if a ≤ Config.msgLast then s.setMsg (s.msg.setWord (wordIndex a) d)
  else if a = Config.ctrlAddr then (if d.getLsbD 0 then start s else s)
  else s

/-- One host transaction as one atomic transition (spec/20_memory.md R61): an `HREAD` changes nothing of the core and
hands the host its value. -/
def hostTurn (c : HostCmd) (s : State) : State :=
  match c with
  | .read a => s.addReply a (hread s a)
  | .write a d => hwrite s a d

/-- One event (spec/70_reset_and_hazards.md R260). -/
def eventTurn (e : Event) (s : State) : Host.Outcome State Fault Refusal :=
  match e with
  | .sequencer => seqTurn s
  | .host c => .next (hostTurn c s)
  | .reset => .next s.applyReset

end Sys2Proof.Machine
end

