-- ==== Sys2Proof/Machine/Step.lean ====
section
/-! DEFINITION. One step of the machine: the next event of the agenda, or the sequencer where none is listed; and
where the host's tests place the instruction the next step runs. -/

namespace Sys2Proof.Machine

/-- One atomic transition (spec/20_memory.md R61). The agenda says which of the agents moves; an empty agenda leaves
the machine to the sequencer, which is the fairness of spec/44_round_driver.md R190. -/
def step (s : State) : Host.Outcome State Fault Refusal :=
  match s.agenda with
  | [] => seqTurn s
  | e :: rest => eventTurn e (s.setAgenda rest)

/-- `s` with the sequencer about to run the ROM entry that holds the word (assumption log 13): `BUSY` = 1, `DONE` = 0,
`UPC` at the entry's address, and the sequencer's turn next. The ROM is no state and cannot be written
(spec/10_state.md R21), so the entry is selected, not stored. A word the ROM does not hold gets `UPC` = 127, where a
step refuses. -/
def State.withFetchWord (s : State) (nbits w : Nat) : State :=
  { s with
    upc := BitVec.ofNat 7 ((romIndexOf (tableByte nbits w)).getD 127)
    busy := true
    done := false
    agenda := .sequencer :: s.agenda }

end Sys2Proof.Machine
end

