-- ==== Sys2Proof/Machine/Pseudo.lean ====
section
/-! DEFINITION. The pseudo-instructions (spec/30_encoding.md R89) and the host's invocation protocol
(spec/45_host_commands.md R213), as lists of micro-operations and of events. -/

namespace Sys2Proof.Machine

/-- `COLMIX r` (spec/30_encoding.md R89). -/
def colmix (r : BitVec 4) : List Instr := [.sched r .column, .g1, .g2]

/-- `DIAGMIX r` (spec/30_encoding.md R89). -/
def diagmix (r : BitVec 4) : List Instr := [.sched r .diagonal, .g1, .g2]

/-- `ROUND r`, the eight micro-operations of a round (spec/30_encoding.md R89, spec/44_round_driver.md R180). -/
def roundOps (r : BitVec 4) : List Instr := colmix r ++ [.diag] ++ diagmix r ++ [.undiag]

/-- `COMPRESS`: `ROUND 0` to `ROUND 11` (spec/30_encoding.md R89, spec/44_round_driver.md R181). -/
def compressOps : List Instr := (List.range Config.nRound).flatMap fun r => roundOps (BitVec.ofNat 4 r)

/-- `START`: `HWRITE 0x20, 0x0000000000000001` (spec/30_encoding.md R83, R89). -/
def startCmd : Event := .host (.write Config.ctrlAddr 1)

/-- One poll of `WAIT`: `HREAD 0x21` (spec/30_encoding.md R89). -/
def pollCmd : Event := .host (.read Config.statusAddr)

/-- Step 2 of the protocol: the message block (spec/45_host_commands.md R213). -/
def loadMsg (m : Words) : List Event :=
  (List.finRange 16).map fun i => .host (.write (BitVec.ofNat 6 (0x10 + i.val)) m[i])

/-- Step 3 of the protocol: the working state (spec/45_host_commands.md R213). -/
def loadState (v : Words) : List Event :=
  (List.finRange 16).map fun i => .host (.write (BitVec.ofNat 6 i.val) v[i])

/-- Step 6 of the protocol: reading the result (spec/45_host_commands.md R213). -/
def readState : List Event :=
  (List.finRange 16).map fun i => .host (.read (BitVec.ofNat 6 i.val))

/-- What step 6 of the protocol hands the host when the result is `w`. -/
def stateReplies (w : Words) : List Reply :=
  (List.finRange 16).map fun i => ⟨BitVec.ofNat 6 i.val, w[i]⟩

end Sys2Proof.Machine
end

