-- ==== Sys2Proof/Machine/Harness.lean ====
section
/-! DEFINITION. The test harness of spec/00_scope.md R12: micro-programs other than the ROM run through the same
per-operation rules. It is not something the hardware can be made to run; a program with a reserved byte is refused by
name (spec/60_exceptions.md R233). -/

namespace Sys2Proof.Machine

/-- Executes a list of micro-operations in order, stopping at the first that gives no next state. -/
def runOps : List Instr → State → Host.Outcome State Fault Refusal
  | [], s => .next s
  | i :: is, s =>
    match exec i s with
    | .next t => runOps is t
    | .fault f => .fault f
    | .refused r => .refused r

/-- Decodes a micro-program byte by byte; `.inl b` names its first reserved byte. -/
def decodeProgram : List Byte → Sum Byte (List Instr)
  | [] => .inr []
  | b :: bs =>
    match decode b with
    | .reserved _ => .inl b
    | .instr i =>
      match decodeProgram bs with
      | .inl c => .inl c
      | .inr is => .inr (i :: is)

/-- Runs a micro-program; one that contains a reserved byte has no meaning and is refused by name before anything runs
(spec/30_encoding.md R85, spec/60_exceptions.md R233). -/
def runMicro (prog : List Byte) (s : State) : Host.Outcome State Fault Refusal :=
  match decodeProgram prog with
  | .inl b => .refused (.reservedByte b)
  | .inr is => runOps is s

end Sys2Proof.Machine
end

