-- ==== Sys2Proof/Machine/Reference.lean ====
section
/-! DEFINITION. The function the hardware computes, `COMPRESS` (spec/44_round_driver.md R185), and the scalar reference
program it is to equal (R186). -/

namespace Sys2Proof.Machine

/-- A state with `V[i]` = `v[i]` and `MSG[i]` = `m[i]`; the other registers are as reset leaves them. -/
def loaded (v m : Words) : State := (State.reset.setRows (Rows.ofWords v)).setMsg (MsgRegs.ofWords m)

/-- `COMPRESS(v, m)`: `V[0..15]` after the 96 micro-operations of the ROM, from a state that holds `v` and `m`
(spec/44_round_driver.md R185). -/
def compress (v m : Words) : Option Words :=
  match runMicro rom (loaded v m) with
  | .next t => some t.v
  | .fault _ => none
  | .refused _ => none

/-- One scalar half step on four words: the equations of spec/41_mixing_g.md R124. The result is
`(a', b', c', d')`. -/
def scalarStep (p q : RotAmount) (a b c d x : Word) : Word × Word × Word × Word :=
  let a := a + b + x
  let d := rotr64 (d ^^^ a) p
  let c := c + d
  let b := rotr64 (b ^^^ c) q
  (a, b, c, d)

/-- `G(a, b, c, d, x, y)` on four indices into `v` (spec/44_round_driver.md R186). -/
def scalarG (a b c d : Fin 16) (x y : Word) (v : Words) : Words :=
  let v := v.set a (v[a] + v[b] + x)
  let v := v.set d (rotr64 (v[d] ^^^ v[a]) .by32)
  let v := v.set c (v[c] + v[d])
  let v := v.set b (rotr64 (v[b] ^^^ v[c]) .by24)
  let v := v.set a (v[a] + v[b] + y)
  let v := v.set d (rotr64 (v[d] ^^^ v[a]) .by16)
  let v := v.set c (v[c] + v[d])
  v.set b (rotr64 (v[b] ^^^ v[c]) .by63)

/-- One round of the scalar program (spec/44_round_driver.md R186). -/
def scalarRound (m : Words) (v : Words) (r : Fin 12) : Words :=
  let s := sigma[r]
  let v := scalarG 0 4 8 12 m[s[0]] m[s[1]] v
  let v := scalarG 1 5 9 13 m[s[2]] m[s[3]] v
  let v := scalarG 2 6 10 14 m[s[4]] m[s[5]] v
  let v := scalarG 3 7 11 15 m[s[6]] m[s[7]] v
  let v := scalarG 0 5 10 15 m[s[8]] m[s[9]] v
  let v := scalarG 1 6 11 12 m[s[10]] m[s[11]] v
  let v := scalarG 2 7 8 13 m[s[12]] m[s[13]] v
  scalarG 3 4 9 14 m[s[14]] m[s[15]] v

/-- The scalar reference program (spec/44_round_driver.md R186). -/
def scalarCompress (v m : Words) : Words := (List.finRange 12).foldl (scalarRound m) v

end Sys2Proof.Machine
end

