-- ==== Sys2Proof/Safety.lean ====
section
/-! DEFINITION. What the statements speak of: the invariant of the legal states, what a law-abiding host does, and
agreement of two states on a part of them. -/

namespace Sys2Proof.Machine

/-- The legal states (spec/10_state.md R31): `BUSY` = 0 implies `UPC` = 0; `UPC` <= 95; never `BUSY` and `DONE`
both 1. -/
abbrev LegalState (s : State) : Prop :=
  (s.busy = false → s.upc = 0) ∧ s.upc.toNat ≤ 95 ∧ ¬(s.busy = true ∧ s.done = true)

/-- `k` steps of the machine, stopping at the first that has no next state. It is `Host.Core.run` of `core`
(`Sys2Proof.Machine.runSteps_eq_core_run`), with the state's type written out. -/
def runSteps : Nat → State → Host.Outcome State Fault Refusal
  | 0, s => .next s
  | k + 1, s =>
    match step s with
    | .next t => runSteps k t
    | .fault f => .fault f
    | .refused r => .refused r

/-- What a law-abiding host may do while `BUSY` = 1: no `HWRITE`, no `HREAD` of a `V[i]`
(spec/70_reset_and_hazards.md R264). -/
def HostCmd.lawfulWhileBusy : HostCmd → Bool
  | .read a => decide (16 ≤ a.toNat)
  | .write _ _ => false

/-- A stretch of the agenda that the invocation protocol allows between `START` and the last poll: the sequencer's
turns and polls of `STATUS` (spec/45_host_commands.md R213, step 5). -/
def Event.waiting : Event → Bool
  | .sequencer => true
  | .host (.read a) => decide (a = Config.statusAddr)
  | .host (.write _ _) => false
  | .reset => false

/-- The event is not the reset input. -/
def Event.notReset : Event → Bool
  | .sequencer => true
  | .host _ => true
  | .reset => false

/-- The two states agree on everything that decides which micro-operation runs and which agent moves. -/
def SameControl (s t : State) : Prop :=
  s.upc = t.upc ∧ s.busy = t.busy ∧ s.done = t.done ∧ s.agenda = t.agenda

/-- The two states hold the same working state and the same message block. -/
def SameInput (s t : State) : Prop := s.rows = t.rows ∧ s.msg = t.msg

/-- The event the next step performs is the sequencer's turn, listed or by default. -/
def seqMoves (s : State) : Prop := s.agenda = [] ∨ ∃ rest, s.agenda = .sequencer :: rest

end Sys2Proof.Machine
end

