-- ==== Sys2Proof/Certificates/Slice0/Obligations.lean ====
section
/-! DEFINITION. The statements for the provers, each the Lean form of what its docstring cites. Rows are numbered 1 to 4
in the spec and 0 to 3 in `Rows.at`. Where a statement speaks of every state it holds in states no run reaches too. -/

open Sys2Proof Sys2Proof.Machine

/-! ### Encoding -/

/-- Decoding an encoded well-formed micro-operation gives it back, for every operand the encoding admits. -/
def Obligations.DecodeOfEncodeIsInstr : Prop :=
  ∀ i : Instr, i.wellFormed = true → decode (encode i) = .instr i

/-- Each legal byte stands for one well-formed micro-operation, and encoding that one gives the byte back. -/
def Obligations.EncodeOfDecodeIsByte : Prop :=
  ∀ (b : Byte) (i : Instr), decode b = .instr i → i.wellFormed = true ∧ encode i = b

/-- spec/30_encoding.md R82: a byte decodes to an instruction of a row exactly when it fits the row's mask and match
and the constraint holds; a byte that does so for no row is reserved. The 28 legal bytes are those the rule lists. -/
def Obligations.OpcodeTableDecidesDecoding : Prop :=
  opcodeTable.map (fun row => (row.mnemonic, row.mask.toNat, row.pattern.toNat)) =
    [("SCHED", 0xE0, 0x00), ("G1", 0xFF, 0x20), ("G2", 0xFF, 0x40), ("DIAG", 0xFF, 0x60), ("UNDIAG", 0xFF, 0x80)] ∧
  (∀ (b : Byte) (i : Instr), decode b = .instr i → i.row ∈ opcodeTable ∧ i.row.fits b = true) ∧
  (∀ b : Byte, isReserved b = false ↔
    (∃ row ∈ opcodeTable, row.fits b = true) ∧ (b &&& 0xE0 = 0 → (b &&& 0x0F).toNat ≤ 11)) ∧
  (∀ b : Byte, b &&& 0xE0 = 0 → (b &&& 0x0F).toNat ≤ 11 →
    decode b = .instr (.sched (b.extractLsb' 0 4) (if b.getLsbD 4 then .diagonal else .column))) ∧
  (∀ b : Byte, isReserved b = false ↔
    (b.toNat ≤ 0x0B ∨ (0x10 ≤ b.toNat ∧ b.toNat ≤ 0x1B) ∨ b.toNat ∈ [0x20, 0x40, 0x60, 0x80]))

/-- spec/30_encoding.md R82, the opcode map's bytes written out. -/
def Obligations.WrittenOutWordsDecode : Prop :=
  decode 0b00000000 = .instr (.sched 0 .column) ∧ decode 0b00001011 = .instr (.sched 11 .column) ∧
  decode 0b00010000 = .instr (.sched 0 .diagonal) ∧ decode 0b00011011 = .instr (.sched 11 .diagonal) ∧
  decode 0b00100000 = .instr .g1 ∧ decode 0b01000000 = .instr .g2 ∧
  decode 0b01100000 = .instr .diag ∧ decode 0b10000000 = .instr .undiag

/-- spec/30_encoding.md R85: the 228 reserved bytes are those of its three classes, the decoder is total and says so
of each, and a program that contains one is refused by name. -/
def Obligations.ReservedBytesAreRefused : Prop :=
  ((List.range 256).filter fun n => isReserved (BitVec.ofNat 8 n)).length = 228 ∧
  (∀ b : Byte, isReserved b = true ↔
    (b.toNat ∈ [0x0C, 0x0D, 0x0E, 0x0F, 0x1C, 0x1D, 0x1E, 0x1F] ∨
     (b.toNat / 32 ∈ [1, 2, 3, 4] ∧ b.toNat % 32 ≠ 0) ∨ 0xA0 ≤ b.toNat)) ∧
  (∀ b ∈ rom, isReserved b = false) ∧
  (∀ (prog : List Byte) (s : State), (∃ b ∈ prog, isReserved b = true) →
    ∃ b ∈ prog, isReserved b = true ∧ runMicro prog s = .refused (.reservedByte b))

/-- A test program without a reserved byte runs to a next state from every state (spec/00_scope.md R12). -/
def Obligations.LegalTestProgramRuns : Prop :=
  ∀ (prog : List Byte) (s : State), (∀ b ∈ prog, isReserved b = false) → ∃ t, runMicro prog s = .next t

/-- A round field of 12 to 15 is a reserved encoding and no byte decodes to it (spec/30_encoding.md R85,
spec/42_message_schedule.md R143). That `exec` refuses the term, which no byte stands for, by name is the model's own
reading (log 12, DEDUCED). -/
def Obligations.ReservedRoundIsRefused : Prop :=
  ∀ (r : BitVec 4) (h : Half) (s : State), 12 ≤ r.toNat →
    exec (.sched r h) s = .refused (.reservedRound r) ∧ ∀ b : Byte, decode b ≠ .instr (.sched r h)

/-- spec/30_encoding.md R90: the ROM image by its formula, and the `r` and `h` fields of its `SCHED` entries read off
`UPC`. spec/44_round_driver.md R180: a round is the eight micro-operations `SCHED r, C`; `G1`; `G2`; `DIAG`; `SCHED r, D`;
`G1`; `G2`; `UNDIAG`, and the ROM is the encoding of rounds 0 to 11. R189: the loop form, which makes each micro-operation
from `UPC`, is the same program. -/
def Obligations.RomImageIsTheSpecs : Prop :=
  rom.length = 96 ∧
  (∀ r : Fin 12, (List.range 8).map (fun k => (rom[8 * r.val + k]?).map BitVec.toNat) =
    [some r.val, some 0x20, some 0x40, some 0x60, some (0x10 + r.val), some 0x20, some 0x40, some 0x80]) ∧
  (∀ (u : BitVec 7) (b : Byte), fetch u = some b → (stepField u = 0 ∨ stepField u = 4) →
    rField b = rndField u ∧ hField b = u.extractLsb' 2 1) ∧
  (∀ r : BitVec 4, roundOps r = [.sched r .column, .g1, .g2, .diag, .sched r .diagonal, .g1, .g2, .undiag]) ∧
  rom = compressOps.map encode ∧
  (∀ (r : Fin 12) (k : Fin 8), ((rom[8 * r.val + k.val]?).map decode) =
    ((roundOps (BitVec.ofNat 4 r.val))[k.val]?).map Decoded.instr) ∧
  (∀ u : BitVec 7, fetch u = if u.toNat ≤ 95 then some (loopByte u) else none)

/-! ### The sequencer -/

/-- The sequencer's step runs the micro-operation that the ROM byte at `UPC` decodes to, and then sets `UPC`, `BUSY` and
`DONE`; the byte is never reserved; with `BUSY` = 0 no register changes (spec/44_round_driver.md R182). That the turn
with `BUSY` = 0, where the spec has no step, is a next state and not a stop is the model's choice (log 7, DESIGN CHOICE),
and so are the agenda, which moves on (log 4), and the sequencer's turn when it is empty (log 5). -/
def Obligations.StepRunsDecodedInstr : Prop :=
  (∀ (s : State) (b : Byte) (i : Instr) (t : State), s.busy = true → seqMoves s →
    rom[s.upc.toNat]? = some b → decode b = .instr i → exec i (s.setAgenda s.agenda.tail) = .next t →
    step s = .next (if s.upc.toNat = 95 then t.setControl 0 false true else t.setControl (s.upc + 1) true s.done)) ∧
  (∀ u : BitVec 7, u.toNat ≤ 95 → ∃ b i, rom[u.toNat]? = some b ∧ decode b = .instr i ∧ i.wellFormed = true) ∧
  (∀ s : State, s.busy = false → seqMoves s → step s = .next (s.setAgenda s.agenda.tail))

/-- The legal states' invariant holds at reset (spec/10_state.md R31, R34). -/
def Obligations.ResetIsLegal : Prop := LegalState State.reset

/-- The legal states' invariant (spec/10_state.md R31) is kept by every step, whatever the agenda holds. -/
def Obligations.StepKeepsLegalState : Prop :=
  ∀ s t : State, LegalState s → step s = .next t → LegalState t

/-- No micro-operation and no host transaction can fault, for any operand and any state (spec/60_exceptions.md R230). The
third clause, that from a legal state the machine always has a next state, is the model's: an idle sequencer's turn is a
stutter and not a stop (log 7, DESIGN CHOICE). -/
def Obligations.NothingFaults : Prop :=
  (∀ (i : Instr) (s : State), i.wellFormed = true → ∃ t, exec i s = .next t) ∧
  (∀ (c : HostCmd) (s : State), ∃ t, eventTurn (.host c) s = .next t) ∧
  (∀ s : State, LegalState s → ∃ t, step s = .next t)

/-- spec/44_round_driver.md R184: no bit of `V`, `MSG`, `B0`..`B3` influences `UPC`, `BUSY` or `DONE`: two states that
agree on control step alike, to states that agree on control. Which micro-operation runs at step `n` of an invocation is
a function of `n` alone: it is `ROM[n]`. -/
def Obligations.ControlIgnoresData : Prop :=
  (∀ s t : State, SameControl s t →
    (∀ s', step s = .next s' → ∃ t', step t = .next t' ∧ SameControl s' t') ∧
    (∀ r, step s = .refused r → step t = .refused r)) ∧
  (∀ (s : State) (n : Nat), s.busy = true → s.upc = 0 → s.agenda = [] → n < 96 →
    ∃ t : State, runSteps n s = .next t ∧ fetch t.upc = rom[n]?)

/-- spec/44_round_driver.md R183: `UPC` moves by one, or to 0 at the completion, an accepted `START` or reset; nothing
else writes it. -/
def Obligations.UpcMovesOnlyBySequencing : Prop :=
  ∀ s t : State, step s = .next t → t.upc ≠ s.upc →
    (seqMoves s ∧ s.busy = true ∧ s.upc.toNat < 95 ∧ t.upc = s.upc + 1) ∨
    (seqMoves s ∧ s.busy = true ∧ s.upc.toNat = 95 ∧ t.upc = 0 ∧ t.busy = false ∧ t.done = true) ∨
    (∃ d rest, s.agenda = .host (.write 0x20 d) :: rest ∧ d.getLsbD 0 = true ∧ s.busy = false ∧ t.upc = 0) ∨
    (∃ rest, s.agenda = .reset :: rest ∧ t.upc = 0)

/-- spec/45_host_commands.md R212: `DONE` rises only with the step that executes `ROM[95]`, which also clears `BUSY`, and
it falls only by an accepted `START` or by reset; the output `done` is `DONE`. -/
def Obligations.DoneIsStickyUntilStartOrReset : Prop :=
  (∀ s t : State, step s = .next t → s.done = false → t.done = true →
    seqMoves s ∧ s.busy = true ∧ rom[s.upc.toNat]? = rom[95]? ∧ s.upc.toNat = 95 ∧ t.busy = false) ∧
  (∀ s t : State, step s = .next t → s.done = true → t.done = false →
    (∃ d rest, s.agenda = .host (.write 0x20 d) :: rest ∧ d.getLsbD 0 = true ∧ s.busy = false) ∨
    (∃ rest, s.agenda = .reset :: rest)) ∧
  (∀ s t : State, step s = .next t → seqMoves s → s.busy = true → s.upc.toNat = 95 → t.busy = false ∧ t.done = true) ∧
  (∀ s : State, s.doneOut = s.done)

/-- spec/10_state.md R25: only `HWRITE` with `BUSY` = 0 changes a message register (and reset, which leaves it
unspecified: R34); no micro-operation does; so `MSG` at `DONE` is `MSG` at `START`. -/
def Obligations.OnlyHostWriteChangesMessage : Prop :=
  (∀ (i : Instr) (s t : State), exec i s = .next t → t.msg = s.msg) ∧
  (∀ s t : State, step s = .next t → t.msg ≠ s.msg →
    (∃ a d rest, s.agenda = .host (.write a d) :: rest ∧ s.busy = false ∧ 0x10 ≤ a.toNat ∧ a.toNat ≤ 0x1F) ∨
    (∃ rest, s.agenda = .reset :: rest)) ∧
  (∀ s : State, s.busy = true → s.upc = 0 → s.agenda = [] →
    ∃ t : State, runSteps 96 s = .next t ∧ t.done = true ∧ t.msg = s.msg)

/-- What no micro-operation touches: the control bits, the message registers, the agenda and the host's record. None
writes both the rows and the operand registers, and only `G1` and `G2` change row 1 (spec/41_mixing_g.md R126,
spec/42_message_schedule.md R143, spec/43_row_reorder.md R164). -/
def Obligations.MicroOperationsKeepControl : Prop :=
  ∀ (i : Instr) (s t : State), exec i s = .next t →
    t.upc = s.upc ∧ t.busy = s.busy ∧ t.done = s.done ∧ t.msg = s.msg ∧ t.agenda = s.agenda ∧ t.replies = s.replies ∧
    (t.rows = s.rows ∨ t.ops = s.ops) ∧ (t.rows.r1l = s.rows.r1l ∧ t.rows.r1h = s.rows.r1h ∨ i = .g1 ∨ i = .g2)

/-! ### The mixing steps -/

/-- spec/41_mixing_g.md R120: additions wrap modulo 2^64 in each lane by itself, no carry crosses; `VADD` is commutative
and associative; `VXOR` and `VROTR` act on each lane by itself. -/
def Obligations.LaneArithmetic : Prop :=
  (∀ x y : VReg, (vadd x y).l0.toNat = (x.l0.toNat + y.l0.toNat) % 2 ^ 64 ∧
    (vadd x y).l1.toNat = (x.l1.toNat + y.l1.toNat) % 2 ^ 64) ∧
  (∀ x y z : VReg, vadd x y = vadd y x ∧ vadd (vadd x y) z = vadd x (vadd y z)) ∧
  (∀ (x y : VReg) (n : Nat), (vxor x y).l0.getLsbD n = (x.l0.getLsbD n ^^ y.l0.getLsbD n) ∧
    (vxor x y).l1.getLsbD n = (x.l1.getLsbD n ^^ y.l1.getLsbD n)) ∧
  (∀ (x : VReg) (a : RotAmount), vrotr x a = ⟨rotr64 x.l0 a, rotr64 x.l1 a⟩)

/-- spec/41_mixing_g.md R122 with R121: `G1` is `GSTEP(32, 24, B0, B1)`, four lines each reading what the lines
before it left; it runs in every state and writes nothing but the row registers; its byte is 0x20; zero stays zero; the
rule's example, at every position. -/
def Obligations.G1IsFirstMixingStep : Prop :=
  decode 0x20 = .instr .g1 ∧
  ∀ s : State, ∃ t : State, exec .g1 s = .next t ∧
    t.rows.r1l = vadd (vadd s.rows.r1l s.rows.r2l) s.ops.b0 ∧ t.rows.r1h = vadd (vadd s.rows.r1h s.rows.r2h) s.ops.b1 ∧
    t.rows.r4l = vrotr (vxor s.rows.r4l t.rows.r1l) .by32 ∧ t.rows.r4h = vrotr (vxor s.rows.r4h t.rows.r1h) .by32 ∧
    t.rows.r3l = vadd s.rows.r3l t.rows.r4l ∧ t.rows.r3h = vadd s.rows.r3h t.rows.r4h ∧
    t.rows.r2l = vrotr (vxor s.rows.r2l t.rows.r3l) .by24 ∧ t.rows.r2h = vrotr (vxor s.rows.r2h t.rows.r3h) .by24 ∧
    t = { s with rows := t.rows } ∧
    (s.v = Vector.replicate 16 0 → s.ops.b0 = ⟨0, 0⟩ → s.ops.b1 = ⟨0, 0⟩ → t.v = Vector.replicate 16 0) ∧
    (∀ j : Fin 4, s.rows.at 0 j = 0 → s.rows.at 1 j = 4 → s.rows.at 2 j = 8 → s.rows.at 3 j = 12 →
      operandAt s.ops.b0 s.ops.b1 j = 1 →
      t.rows.at 0 j = 0x0000000000000005 ∧ t.rows.at 3 j = 0x0000000900000000 ∧
      t.rows.at 2 j = 0x0000000900000008 ∧ t.rows.at 1 j = 0x00000C0000000900)

/-- spec/41_mixing_g.md R123 with R121: `G2` is `GSTEP(16, 63, B2, B3)`; it runs in every state and writes nothing but
the row registers; its byte is 0x40; zero stays zero; the rule's corner case and example, at every position. -/
def Obligations.G2IsSecondMixingStep : Prop :=
  decode 0x40 = .instr .g2 ∧
  ∀ s : State, ∃ t : State, exec .g2 s = .next t ∧
    t.rows.r1l = vadd (vadd s.rows.r1l s.rows.r2l) s.ops.b2 ∧ t.rows.r1h = vadd (vadd s.rows.r1h s.rows.r2h) s.ops.b3 ∧
    t.rows.r4l = vrotr (vxor s.rows.r4l t.rows.r1l) .by16 ∧ t.rows.r4h = vrotr (vxor s.rows.r4h t.rows.r1h) .by16 ∧
    t.rows.r3l = vadd s.rows.r3l t.rows.r4l ∧ t.rows.r3h = vadd s.rows.r3h t.rows.r4h ∧
    t.rows.r2l = vrotr (vxor s.rows.r2l t.rows.r3l) .by63 ∧ t.rows.r2h = vrotr (vxor s.rows.r2h t.rows.r3h) .by63 ∧
    t = { s with rows := t.rows } ∧
    (s.v = Vector.replicate 16 0 → s.ops.b2 = ⟨0, 0⟩ → s.ops.b3 = ⟨0, 0⟩ → t.v = Vector.replicate 16 0) ∧
    (∀ j : Fin 4, s.rows.at 0 j = 0x8000000000000000 → s.rows.at 1 j = 0x8000000000000000 → s.rows.at 2 j = 0 →
      s.rows.at 3 j = 0 → operandAt s.ops.b2 s.ops.b3 j = 0 →
      t.rows.at 0 j = 0 ∧ t.rows.at 3 j = 0 ∧ t.rows.at 2 j = 0 ∧ t.rows.at 1 j = 1) ∧
    (∀ j : Fin 4, s.rows.at 0 j = 0x0000000000000005 → s.rows.at 1 j = 0x00000C0000000900 →
      s.rows.at 2 j = 0x0000000900000008 → s.rows.at 3 j = 0x0000000900000000 → operandAt s.ops.b2 s.ops.b3 j = 2 →
      t.rows.at 0 j = 0x00000C0000000907 ∧ t.rows.at 3 j = 0x090700000C090000 ∧
      t.rows.at 2 j = 0x090700090C090008 ∧ t.rows.at 1 j = 0x120E181218121210)

/-- The position view (spec/41_mixing_g.md R124, which the spec derives): one mixing step is four copies of one scalar
computation, one per position, and no position reads another's words. -/
def Obligations.MixingStepByPosition : Prop :=
  ∀ (s : State) (j : Fin 4), ∃ t u : State, exec .g1 s = .next t ∧ exec .g2 s = .next u ∧
    scalarStep .by32 .by24 (s.rows.at 0 j) (s.rows.at 1 j) (s.rows.at 2 j) (s.rows.at 3 j) (operandAt s.ops.b0 s.ops.b1 j)
      = (t.rows.at 0 j, t.rows.at 1 j, t.rows.at 2 j, t.rows.at 3 j) ∧
    scalarStep .by16 .by63 (s.rows.at 0 j) (s.rows.at 1 j) (s.rows.at 2 j) (s.rows.at 3 j) (operandAt s.ops.b2 s.ops.b3 j)
      = (u.rows.at 0 j, u.rows.at 1 j, u.rows.at 2 j, u.rows.at 3 j)

/-- `COLMIX r` is the four column calls of the scalar function G (spec/41_mixing_g.md R125, spec/42_message_schedule.md
R146, which rest on general knowledge the spec marks as such). -/
def Obligations.ColumnPhaseIsFourScalarG : Prop :=
  ∀ (r : Fin 12) (s : State), ∃ t : State, runOps (colmix (BitVec.ofNat 4 r.val)) s = .next t ∧
    t.v = scalarG 3 7 11 15 s.m[sigma[r][6]] s.m[sigma[r][7]] (scalarG 2 6 10 14 s.m[sigma[r][4]] s.m[sigma[r][5]]
      (scalarG 1 5 9 13 s.m[sigma[r][2]] s.m[sigma[r][3]] (scalarG 0 4 8 12 s.m[sigma[r][0]] s.m[sigma[r][1]] s.v))) ∧
    t = { s with rows := t.rows, ops := t.ops }

/-- `DIAG`, `DIAGMIX r`, `UNDIAG` is the four diagonal calls of the scalar function G (spec/43_row_reorder.md R167,
spec/42_message_schedule.md R146, which the spec derives or takes from general knowledge). -/
def Obligations.DiagonalPhaseIsFourScalarG : Prop :=
  ∀ (r : Fin 12) (s : State), ∃ t : State,
    runOps ([.diag] ++ diagmix (BitVec.ofNat 4 r.val) ++ [.undiag]) s = .next t ∧
    t.v = scalarG 3 4 9 14 s.m[sigma[r][14]] s.m[sigma[r][15]] (scalarG 2 7 8 13 s.m[sigma[r][12]] s.m[sigma[r][13]]
      (scalarG 1 6 11 12 s.m[sigma[r][10]] s.m[sigma[r][11]] (scalarG 0 5 10 15 s.m[sigma[r][8]] s.m[sigma[r][9]] s.v))) ∧
    t.msg = s.msg

/-! ### The message scheduler -/

/-- `SCHED r, h` loads `MSG[SIGMA[r][8h+2j]]` for `G1` and `MSG[SIGMA[r][8h+2j+1]]` for `G2` at position `j`; it runs in
every state and writes nothing but `B0`..`B3`; its byte is `000 h rrrr`; the eight indices it selects are distinct, the two
`SCHED` of a round select all sixteen, every row of `SIGMA` is a permutation, and rows 10, 11 repeat rows 0, 1
(spec/42_message_schedule.md R143, R141). Which index goes to which position the spec takes from general knowledge, as it
does the table (log 15). -/
def Obligations.SchedLoadsPermutedWords : Prop :=
  (∀ (r : BitVec 4) (h : Half) (s : State) (hr : r.toNat ≤ 11), ∃ t : State, exec (.sched r h) s = .next t ∧
    (∀ j : Fin 4,
      operandAt t.ops.b0 t.ops.b1 j = s.m[sigma[r.toNat][halfBase h + 2 * j.val]'(by cases h <;> simp only [halfBase] <;> omega)] ∧
      operandAt t.ops.b2 t.ops.b3 j = s.m[sigma[r.toNat][halfBase h + 2 * j.val + 1]'(by cases h <;> simp only [halfBase] <;> omega)]) ∧
    t = { s with ops := t.ops }) ∧
  (∀ (r : Fin 12), decode (BitVec.ofNat 8 r.val) = .instr (.sched (BitVec.ofNat 4 r.val) .column) ∧
    decode (BitVec.ofNat 8 (0x10 + r.val)) = .instr (.sched (BitVec.ofNat 4 r.val) .diagonal)) ∧
  (∀ (r : Fin 12) (h : Half), ((List.finRange 8).map (sigmaAt r h)).Nodup) ∧
  (∀ (r : Fin 12) (i : Fin 16), ∃ (h : Half) (k : Fin 8), sigmaAt r h k = i) ∧
  (∀ r : Fin 12, sigma[r].toList.Perm (List.finRange 16)) ∧ sigma[10] = sigma[0] ∧ sigma[11] = sigma[1]

/-! ### The row reordering -/

/-- spec/43_row_reorder.md R161: `DIAG`, all right-hand sides read before; it runs in every state and writes nothing but
rows 2 to 4 and the scratch registers (whose value is free: `freeNext` is the model's counter of draws); its byte is
0x60; it moves whole words (the multiset of the sixteen is unchanged); the rule's example. That the rows turn by 1, 2, 3
is R160, which the spec takes from general knowledge (log 15). -/
def Obligations.DiagTurnsRows : Prop :=
  decode 0x60 = .instr .diag ∧
  ∀ s : State, ∃ t : State, exec .diag s = .next t ∧
    t.rows = { s.rows with
      r2l := ⟨s.rows.r2l.l1, s.rows.r2h.l0⟩, r2h := ⟨s.rows.r2h.l1, s.rows.r2l.l0⟩
      r3l := s.rows.r3h, r3h := s.rows.r3l
      r4l := ⟨s.rows.r4h.l1, s.rows.r4l.l0⟩, r4h := ⟨s.rows.r4l.l1, s.rows.r4h.l0⟩ } ∧
    t = { s with rows := t.rows, t0 := t.t0, t1 := t.t1, freeNext := t.freeNext } ∧
    t.v.toList.Perm s.v.toList ∧
    ((∀ k j : Fin 4, s.rows.at k j = s.rows.at k 0) → t.rows = s.rows) ∧
    (s.v = #v[0, 1, 2, 3, 4, 5, 6, 7, 8, 9, 10, 11, 12, 13, 14, 15] →
      t.v = #v[0, 1, 2, 3, 5, 6, 7, 4, 10, 11, 8, 9, 15, 12, 13, 14])

/-- spec/43_row_reorder.md R162: `UNDIAG`, as `DIAG` the other way round; its byte is 0x80; the
rule's example. -/
def Obligations.UndiagTurnsRowsBack : Prop :=
  decode 0x80 = .instr .undiag ∧
  ∀ s : State, ∃ t : State, exec .undiag s = .next t ∧
    t.rows = { s.rows with
      r2l := ⟨s.rows.r2h.l1, s.rows.r2l.l0⟩, r2h := ⟨s.rows.r2l.l1, s.rows.r2h.l0⟩
      r3l := s.rows.r3h, r3h := s.rows.r3l
      r4l := ⟨s.rows.r4l.l1, s.rows.r4h.l0⟩, r4h := ⟨s.rows.r4h.l1, s.rows.r4l.l0⟩ } ∧
    t = { s with rows := t.rows, t0 := t.t0, t1 := t.t1, freeNext := t.freeNext } ∧
    t.v.toList.Perm s.v.toList ∧
    ((∀ k j : Fin 4, s.rows.at k j = s.rows.at k 0) → t.rows = s.rows) ∧
    (s.v = #v[0, 1, 2, 3, 5, 6, 7, 4, 10, 11, 8, 9, 15, 12, 13, 14] →
      t.v = #v[0, 1, 2, 3, 4, 5, 6, 7, 8, 9, 10, 11, 12, 13, 14, 15])

/-- The reference permutation by position (spec/43_row_reorder.md R160, R162): after `DIAG` position `j` of row `k` + 1
holds the old word at position `j + k` mod 4, after `UNDIAG` the one at `j - k` mod 4; so after `DIAG` position `j` holds
diagonal `j` (R167). `UNDIAG` followed by `DIAG` is the identity as well (R168). The spec takes the amounts from general
knowledge and derives the rest. -/
def Obligations.ReorderingByPosition : Prop :=
  ∀ (s : State) (k j : Fin 4), ∃ t u : State, exec .diag s = .next t ∧ exec .undiag s = .next u ∧
    t.rows.at k j = s.rows.at k (j + k) ∧ u.rows.at k j = s.rows.at k (j - k) ∧
    t.rows.at k j = s.v[4 * k.val + (j.val + k.val) % 4] ∧
    ∃ w : State, exec .diag u = .next w ∧ w.rows = s.rows

/-- spec/43_row_reorder.md R163: for every content of the row registers `DIAG` followed by `UNDIAG` leaves all eight as
they were. R164: neither operation reads or writes row 1, and neither touches the message registers, `B0`..`B3`, `BUSY`
or `DONE`. -/
def Obligations.InverseLawAndRowOne : Prop :=
  (∀ s : State, ∃ t u : State, exec .diag s = .next t ∧ exec .undiag t = .next u ∧ u.rows = s.rows) ∧
  (∀ (i : Instr) (s t : State), i = .diag ∨ i = .undiag → exec i s = .next t →
    (t.rows.r1l = s.rows.r1l ∧ t.rows.r1h = s.rows.r1h ∧ t.msg = s.msg ∧ t.ops = s.ops ∧ t.busy = s.busy ∧
      t.done = s.done) ∧
    ∀ x y : VReg, ∃ u, exec i (s.setRows { s.rows with r1l := x, r1h := y }) = .next u ∧
      u.rows = { t.rows with r1l := x, r1h := y })

/-! ### The rotation primitive -/

/-- spec/40_rotation.md R100: `ROTR64(x, n)` = `((x >> n) or (x << (64 - n))) mod 2^64` on unbounded numbers; bit `i` of
the result is bit `(i + n) mod 64` of `x`; the example. R101: `VROTR` rotates each lane by
itself; no bit moves between lanes. -/
def Obligations.RotationIsShiftCombine : Prop :=
  (∀ (x : Word) (a : RotAmount), (rotr64 x a).toNat = ((x.toNat >>> a.bits) ||| (x.toNat <<< (64 - a.bits))) % 2 ^ 64) ∧
  (∀ (x : Word) (a : RotAmount) (i : Nat), i < 64 → (rotr64 x a).getLsbD i = x.getLsbD ((i + a.bits) % 64)) ∧
  (∀ n : Nat, n ∈ [32, 24, 16, 63] ↔ ∃ a : RotAmount, a.bits = n) ∧
  rotr64 0x0123456789ABCDEF .by24 = 0xABCDEF0123456789 ∧
  (∀ (x : VReg) (a : RotAmount), vrotr x a = ⟨rotr64 x.l0 a, rotr64 x.l1 a⟩ ∧
    (∀ w : Word, (vrotr ⟨x.l0, w⟩ a).l0 = (vrotr x a).l0 ∧ (vrotr ⟨w, x.l1⟩ a).l1 = (vrotr x a).l1))

/-- spec/40_rotation.md R109: rotating back by the complement restores `x` (the formula extended to 1..63); the rotation
is a bijection and distributes over `xor`. -/
def Obligations.RotationLaws : Prop :=
  (∀ (x : Word) (n : Nat), 1 ≤ n → n ≤ 63 → shiftCombine (shiftCombine x n) (64 - n) = x) ∧
  (∀ (x : Word) (a : RotAmount), shiftCombine (rotr64 x a) (64 - a.bits) = x) ∧
  (∀ a : RotAmount, Function.Bijective (fun x : Word => rotr64 x a)) ∧
  (∀ (x y : Word) (a : RotAmount), rotr64 (x ^^^ y) a = rotr64 x a ^^^ rotr64 y a)

/-- The shortcut forms of the tiers equal the rotation (spec/40_rotation.md R105 to R108; the index lists and the
expressions are the spec's own calculations). -/
def Obligations.RotationShortcutsAgree : Prop :=
  (∀ (x : Word) (i : Nat), i < 8 → byteOf (rotr64 x .by24) i = byteOf x ((i + 3) % 8)) ∧
  (∀ (x : Word) (i : Nat), i < 8 → byteOf (rotr64 x .by16) i = byteOf x ((i + 2) % 8)) ∧
  (∀ x : Word, byteShuffle24 x = rotr64 x .by24) ∧ (∀ x : Word, byteShuffle16 x = rotr64 x .by16) ∧
  (∀ x : Word, halfSwap x = rotr64 x .by32) ∧ (∀ x : Word, doubling x = rotr64 x .by63)

/-! ### The host port -/

/-- spec/10_state.md R22, R24: `V[i]` is lane `i mod 2` of the register of row `(i div 4) + 1`, low half when
`i mod 4 < 2`; `MSG[i]` is lane `i mod 2` of `MW(i div 2)`; packing and unpacking are inverse; position `j` of a row is
`V[4(k-1)+j]`; a write of a word replaces its lane and no other. -/
def Obligations.LaneToWordMap : Prop :=
  (∀ (r : Rows) (i : Fin 16), r.word i = laneOf (r.reg ⟨i.val / 4, by omega⟩ (decide (2 ≤ i.val % 4))) i.val) ∧
  (∀ (m : MsgRegs) (i : Fin 16), m.word i = laneOf (m.reg ⟨i.val / 2, by omega⟩) i.val) ∧
  (∀ r : Rows, Rows.ofWords r.words = r) ∧ (∀ v : Words, (Rows.ofWords v).words = v) ∧
  (∀ m : MsgRegs, MsgRegs.ofWords m.words = m) ∧ (∀ v : Words, (MsgRegs.ofWords v).words = v) ∧
  (∀ (r : Rows) (k j : Fin 4), r.at k j = r.words[4 * k.val + j.val]) ∧
  (∀ (r : Rows) (i j : Fin 16) (w : Word), (r.setWord i w).word j = if j = i then w else r.word j) ∧
  (∀ (m : MsgRegs) (i j : Fin 16) (w : Word), (m.setWord i w).word j = if j = i then w else m.word j)

/-- What `HREAD(a)` returns, and that it changes no state of the core (spec/20_memory.md R53, R60): the reply goes to the
host's record (log 6) and the agenda moves on. With `BUSY` = 0 the values are R53's. That a read of `V[i]` with `BUSY` = 1
returns the lane as it stands where the agenda puts the read is the model's choice (log 8, DESIGN CHOICE). -/
def Obligations.HreadReturnsAndChangesNothing : Prop :=
  (∀ (s : State) (a : HostAddr) (rest : List Event), s.agenda = .host (.read a) :: rest →
    step s = .next { s with agenda := rest, replies := s.replies ++ [⟨a, hread s a⟩] }) ∧
  (∀ (s : State) (i : Fin 16), hread s (BitVec.ofNat 6 i.val) = s.v[i]) ∧
  (∀ (s : State) (i : Fin 16), hread s (BitVec.ofNat 6 (0x10 + i.val)) = s.m[i]) ∧
  (∀ s : State, hread s 0x20 = 0) ∧
  (∀ s : State, hread s 0x21 = BitVec.ofNat 64 (2 * s.done.toNat + s.busy.toNat)) ∧
  (∀ (s : State) (a : HostAddr), 0x22 ≤ a.toNat → hread s a = 0)

/-- spec/20_memory.md R54: what `HWRITE(a, d)` does, each address with `BUSY` = 0, and that it is dropped with
`BUSY` = 1; a write of `V[i]` or `MSG[i]` leaves `DONE` (it leaves everything but its word). -/
def Obligations.HwriteWritesItsWord : Prop :=
  (∀ (s : State) (a : HostAddr) (d : Word) (rest : List Event), s.agenda = .host (.write a d) :: rest →
    step s = .next (hwrite (s.setAgenda rest) a d)) ∧
  (∀ (s : State) (a : HostAddr) (d : Word), s.busy = true → hwrite s a d = s) ∧
  (∀ (s : State) (i : Fin 16) (d : Word), s.busy = false →
    (hwrite s (BitVec.ofNat 6 i.val) d).v = s.v.set i d ∧
    hwrite s (BitVec.ofNat 6 i.val) d = { s with rows := (hwrite s (BitVec.ofNat 6 i.val) d).rows }) ∧
  (∀ (s : State) (i : Fin 16) (d : Word), s.busy = false →
    (hwrite s (BitVec.ofNat 6 (0x10 + i.val)) d).m = s.m.set i d ∧
    hwrite s (BitVec.ofNat 6 (0x10 + i.val)) d = { s with msg := (hwrite s (BitVec.ofNat 6 (0x10 + i.val)) d).msg }) ∧
  (∀ (s : State) (d : Word), s.busy = false → hwrite s 0x20 d = if d.getLsbD 0 then start s else s) ∧
  (∀ (s : State) (a : HostAddr) (d : Word), 0x21 ≤ a.toNat → hwrite s a d = s)

/-- A write of a `V` or `MSG` word is read back, and every other address of the window, `STATUS` among them, reads as
before (spec/10_state.md R23, R24; spec/20_memory.md R53, R54). -/
def Obligations.WriteThenRead : Prop :=
  ∀ (s : State) (a b : HostAddr) (d : Word), s.busy = false → a.toNat < 0x20 →
    hread (hwrite s a d) b = if b = a then d else hread s b

/-- spec/20_memory.md R60: while `BUSY` = 1 `HREAD(0x21)` is legal, every `HWRITE` is dropped without effect, a write of
`CTRL` included, an `HREAD` of `V[i]` returns the lane at the boundary between two micro-operations at which it lands, and
an `HREAD` of `MSG[i]` returns `MSG[i]`. -/
def Obligations.HostAccessWhileBusy : Prop :=
  ∀ (s : State) (rest : List Event), s.busy = true →
    (∀ (a : HostAddr) (d : Word), s.agenda = .host (.write a d) :: rest → step s = .next (s.setAgenda rest)) ∧
    (∀ a : HostAddr, s.agenda = .host (.read a) :: rest → ∃ t : State, step s = .next t ∧
      t = { s with agenda := rest, replies := t.replies } ∧
      (a = 0x21 → ∃ x : Word, t.replies = s.replies ++ [⟨a, x⟩] ∧ x.getLsbD 0 = true) ∧
      (∀ i : Fin 16, a = BitVec.ofNat 6 i.val → t.replies = s.replies ++ [⟨a, s.v[i]⟩]) ∧
      (∀ i : Fin 16, a = BitVec.ofNat 6 (0x10 + i.val) → t.replies = s.replies ++ [⟨a, s.m[i]⟩]))

/-- spec/20_memory.md R59: 0x22 to 0x3F read as 0 and ignore writes, a read of `CTRL` returns 0, a write of `STATUS` is
ignored, and none of these raises anything. -/
def Obligations.ReservedAddressesAreInert : Prop :=
  ∀ (s : State) (a : HostAddr) (d : Word),
    (0x22 ≤ a.toNat → hread s a = 0 ∧ hwrite s a d = s) ∧ hread s 0x20 = 0 ∧ hwrite s 0x21 d = s ∧
    ∃ t u, eventTurn (.host (.read a)) s = .next t ∧ eventTurn (.host (.write a d)) s = .next u

/-- spec/20_memory.md R58: `HREAD` has no side effect and may be repeated; `HWRITE` of `V[i]`, `MSG[i]`, `STATUS` or a
reserved address is idempotent; `HWRITE(0x20, d)` with `d[0]` = 1 alone has an effect beyond the word it names (it starts
the sequencer), and a second one after `DONE` starts a second invocation. -/
def Obligations.TransactionsAreIdempotentButStart : Prop :=
  (∀ (s : State) (a : HostAddr), hostTurn (.read a) s = { s with replies := s.replies ++ [⟨a, hread s a⟩] } ∧
    ∀ b : HostAddr, hread (hostTurn (.read a) s) b = hread s b) ∧
  (∀ (s : State) (a : HostAddr) (d : Word), a ≠ 0x20 → hwrite (hwrite s a d) a d = hwrite s a d) ∧
  (∀ (s : State) (a : HostAddr) (d : Word), ¬(a = 0x20 ∧ d.getLsbD 0 = true) →
    hwrite s a d = { s with rows := (hwrite s a d).rows, msg := (hwrite s a d).msg } ∧
    ∀ b : HostAddr, b ≠ a → hread (hwrite s a d) b = hread s b) ∧
  (∀ (s : State) (d : Word), d.getLsbD 0 = true → s.busy = false → s.done = true →
    (hwrite s 0x20 d).busy = true ∧ (hwrite s 0x20 d).done = false ∧ (hwrite s 0x20 d).upc = 0)

/-- spec/45_host_commands.md R211: `START` with `BUSY` = 0 sets `UPC` <- 0, `BUSY` <- 1, `DONE` <- 0 and touches nothing
else; bits 63:1 of the data word are ignored; with `BUSY` = 1 it is dropped. -/
def Obligations.StartBeginsAnInvocation : Prop :=
  ∀ (s : State) (d : Word) (rest : List Event), s.agenda = .host (.write 0x20 d) :: rest → d.getLsbD 0 = true →
    (s.busy = false → step s = .next { s with upc := 0, busy := true, done := false, agenda := rest }) ∧
    (s.busy = true → step s = .next { s with agenda := rest })

/-- spec/10_state.md R29: `STATUS` bit 0 is `BUSY`, bit 1 is `DONE`, bits 63:2 read as 0; a read of `CTRL` is 0; a write
of `CTRL` with bit 0 clear does nothing. -/
def Obligations.StatusAndControlLayout : Prop :=
  (∀ s : State, (hread s 0x21).getLsbD 0 = s.busy ∧ (hread s 0x21).getLsbD 1 = s.done ∧
    ∀ i : Nat, 2 ≤ i → (hread s 0x21).getLsbD i = false) ∧
  (∀ s : State, hread s 0x20 = 0) ∧
  (∀ (s : State) (d : Word), d.getLsbD 0 = false → hwrite s 0x20 d = s) ∧
  (∀ (s : State) (d d' : Word), d.getLsbD 0 = d'.getLsbD 0 → hwrite s 0x20 d = hwrite s 0x20 d') ∧
  (∀ (s : State) (a : HostAddr) (d : Word), hwrite s 0x21 d = s ∧ (hwrite s a d).replies = s.replies)

/-- After reset `UPC`, `BUSY` and `DONE` are 0 and `STATUS` reads 0; the sequencer does not start by itself; no data
register's value depends on what it held before, it is a free value (spec/10_state.md R34,
spec/70_reset_and_hazards.md R260, R262). The model's choices: not starting is a stutter, `step t` = `t` (log 7, DESIGN
CHOICE); the agenda and the host's record survive reset (log 14, DESIGN CHOICE); the draws are counted (logs 1, 3). -/
def Obligations.ResetForgetsEverything : Prop :=
  (∀ (s : State) (rest : List Event), s.agenda = .reset :: rest → ∃ t : State, step s = .next t ∧
    t.upc = 0 ∧ t.busy = false ∧ t.done = false ∧ hread t 0x21 = 0 ∧ t.agenda = rest ∧ t.replies = s.replies ∧
    (rest = [] → step t = .next t)) ∧
  (∀ s u : State, s.freeNext = u.freeNext → s.applyReset = { u.applyReset with agenda := s.agenda, replies := s.replies }) ∧
  (State.reset.upc = 0 ∧ State.reset.busy = false ∧ State.reset.done = false ∧ hread State.reset 0x21 = 0)

/-- The one pair of coinciding events whose order a law-abiding host can see (spec/60_exceptions.md R235): a poll before the
last sequencer step reads `BUSY` = 1, after it `DONE` = 1, and the core ends in the same state; a `START` before it is
dropped, after it accepted. -/
def Obligations.LastStepAgainstPollOrStart : Prop :=
  ∀ (s : State) (rest : List Event), s.busy = true → s.done = false → s.upc = 95 →
    (∃ t u : State,
      runSteps 2 { s with agenda := pollCmd :: .sequencer :: rest } = .next t ∧
      runSteps 2 { s with agenda := .sequencer :: pollCmd :: rest } = .next u ∧
      t.replies = s.replies ++ [⟨0x21, 1⟩] ∧ u.replies = s.replies ++ [⟨0x21, 2⟩] ∧
      u = { t with replies := u.replies }) ∧
    (∃ t u : State,
      runSteps 2 { s with agenda := startCmd :: .sequencer :: rest } = .next t ∧
      runSteps 2 { s with agenda := .sequencer :: startCmd :: rest } = .next u ∧
      t.busy = false ∧ t.done = true ∧ u.busy = true ∧ u.done = false ∧ u.upc = 0 ∧ u.rows = t.rows)

/-- What a law-abiding host reads while `BUSY` = 1 (spec/70_reset_and_hazards.md R264) does not depend on the boundary at
which the read lands: it is a function of `MSG`, `BUSY` and `DONE` alone. -/
def Obligations.LawfulReadsShowNoIntermediateState : Prop :=
  ∀ (s t : State) (a : HostAddr), (HostCmd.read a).lawfulWhileBusy = true → s.msg = t.msg → s.busy = t.busy →
    s.done = t.done → hread s a = hread t a

/-! ### The whole invocation -/

/-- spec/44_round_driver.md R185, R183, R190: from a state with the invocation before it the machine takes exactly 96
sequencer steps, `BUSY` throughout, and ends with `BUSY` = 0, `DONE` = 1, `UPC` = 0, `V` = `COMPRESS(v, m)`, the message
unchanged, whatever `B0`..`B3`, `T0`, `T1` held. -/
def Obligations.InvocationComputesCompress : Prop :=
  ∀ s : State, s.busy = true → s.upc = 0 → s.agenda = [] →
    (∀ k : Nat, k < 96 → ∃ t : State, runSteps k s = .next t ∧ t.busy = true ∧ t.upc.toNat = k ∧ t.done = s.done) ∧
    ∃ t : State, runSteps 96 s = .next t ∧ t.busy = false ∧ t.done = true ∧ t.upc = 0 ∧
      some t.v = compress s.v s.m ∧ t.msg = s.msg ∧ t.agenda = [] ∧ t.replies = s.replies

/-- `COMPRESS` equals the scalar reference program, word for word (spec/44_round_driver.md R186, which the spec derives and
takes from general knowledge). -/
def Obligations.CompressEqualsScalarReference : Prop :=
  ∀ v m : Words, compress v m = some (scalarCompress v m)

/-- For a fixed message `COMPRESS` is a bijection on 16-word states, and it maps zero with a zero message to zero
(spec/44_round_driver.md R185, in its derived clauses). -/
def Obligations.CompressIsBijective : Prop :=
  (∀ m w : Words, ∃! v : Words, compress v m = some w) ∧
  compress (Vector.replicate 16 0) (Vector.replicate 16 0) = some (Vector.replicate 16 0)

/-- At every round boundary the sixteen logical words are `V[0..15]` (spec/10_state.md R32, which the spec derives): after
`8k` steps `V` is the scalar program's state after its first `k` rounds. -/
def Obligations.RoundBoundariesHoldScalarWords : Prop :=
  ∀ (s : State) (k : Nat), s.busy = true → s.upc = 0 → s.agenda = [] → k ≤ 12 →
    ∃ t : State, runSteps (8 * k) s = .next t ∧ t.v = ((List.finRange 12).take k).foldl (scalarRound s.m) s.v

/-- Determinism (spec/44_round_driver.md R187): the result depends on `V` and `MSG` alone, not on hidden state, earlier
invocations or draws. -/
def Obligations.InvocationIgnoresHiddenState : Prop :=
  ∀ s u : State, s.busy = true → s.upc = 0 → s.agenda = [] → u.busy = true → u.upc = 0 → u.agenda = [] →
    SameInput s u → ∃ s' u' : State, runSteps 96 s = .next s' ∧ runSteps 96 u = .next u' ∧ SameInput s' u'

/-- Nothing the host does while `BUSY` = 1 disturbs the computation (spec/20_memory.md R60, R62; spec/44_round_driver.md
R187; spec/70_reset_and_hazards.md R264): whatever reads and writes, lawful or not, stand among the 96 turns of the
sequencer, the result is the same. For unlawful writes it rests on their being dropped, which the spec warns a claim
should not rest on for every integration (log 9, U5); a host that keeps R264 issues none. -/
def Obligations.HostCannotDisturbInvocation : Prop :=
  ∀ (s : State) (p rest : List Event), s.busy = true → s.upc = 0 → (∀ e ∈ p, e.notReset = true) →
    p.count .sequencer = 95 → s.agenda = p ++ .sequencer :: rest →
    ∃ t : State, runSteps (p.length + 1) s = .next t ∧ some t.v = compress s.v s.m ∧ t.msg = s.msg ∧
      t.busy = false ∧ t.done = true ∧ t.upc = 0 ∧ t.agenda = rest

/-- spec/45_host_commands.md R213, one compression as the host performs it: read `BUSY` = 0, load the message (or find it
there already) and the state in any order, `START`, wait with polls until the sequencer has had its 96 turns, poll once
more, read the sixteen words. The last poll returns `DONE` = 1 and the words are `COMPRESS(v, m)`. -/
def Obligations.ProtocolReturnsCompress : Prop :=
  ∀ (s : State) (v m : Words) (load wait : List Event), s.busy = false →
    (load.Perm (loadMsg m ++ loadState v) ∨ (s.m = m ∧ load.Perm (loadState v))) →
    (∀ e ∈ wait, e.waiting = true) → 96 ≤ wait.count .sequencer →
    s.agenda = pollCmd :: (load ++ startCmd :: (wait ++ pollCmd :: readState)) →
    ∃ (t : State) (w : Words) (x : Word) (polls : List Reply), runSteps s.agenda.length s = .next t ∧
      compress v m = some w ∧ x.getLsbD 0 = false ∧
      t.replies = s.replies ++ [⟨0x21, x⟩] ++ polls ++ [⟨0x21, 2⟩] ++ stateReplies w ∧
      (∀ q ∈ polls, q.addr = 0x21) ∧ t.m = m ∧ t.agenda = []

/-- A second `START` without rewriting `V` compresses the result again with the current message (spec/45_host_commands.md
R218, which the spec derives). -/
def Obligations.SecondStartCompressesAgain : Prop :=
  ∀ s : State, s.busy = false →
    s.agenda = startCmd :: (List.replicate 96 .sequencer ++ startCmd :: List.replicate 96 .sequencer) →
    ∃ (t : State) (w : Words), runSteps 194 s = .next t ∧ compress s.v s.m = some w ∧ compress w s.m = some t.v ∧
      t.m = s.m ∧ t.busy = false ∧ t.done = true
end

