-- ==== Sys2Proof/Laws/State.lean ====
section
/-! SUPPORT. One lemma per field per update of the state, so that no later proof unfolds a record update. -/

namespace Sys2Proof.Machine

variable (s : State)

/-! `State.setRows` -/

@[simp] theorem State.setRows_rows (r : Rows) : (s.setRows r).rows = r := rfl
@[simp] theorem State.setRows_msg (r : Rows) : (s.setRows r).msg = s.msg := rfl
@[simp] theorem State.setRows_ops (r : Rows) : (s.setRows r).ops = s.ops := rfl
@[simp] theorem State.setRows_t0 (r : Rows) : (s.setRows r).t0 = s.t0 := rfl
@[simp] theorem State.setRows_t1 (r : Rows) : (s.setRows r).t1 = s.t1 := rfl
@[simp] theorem State.setRows_upc (r : Rows) : (s.setRows r).upc = s.upc := rfl
@[simp] theorem State.setRows_busy (r : Rows) : (s.setRows r).busy = s.busy := rfl
@[simp] theorem State.setRows_done (r : Rows) : (s.setRows r).done = s.done := rfl
@[simp] theorem State.setRows_agenda (r : Rows) : (s.setRows r).agenda = s.agenda := rfl
@[simp] theorem State.setRows_replies (r : Rows) : (s.setRows r).replies = s.replies := rfl
@[simp] theorem State.setRows_freeNext (r : Rows) : (s.setRows r).freeNext = s.freeNext := rfl

/-! `State.setMsg` -/

@[simp] theorem State.setMsg_rows (m : MsgRegs) : (s.setMsg m).rows = s.rows := rfl
@[simp] theorem State.setMsg_msg (m : MsgRegs) : (s.setMsg m).msg = m := rfl
@[simp] theorem State.setMsg_ops (m : MsgRegs) : (s.setMsg m).ops = s.ops := rfl
@[simp] theorem State.setMsg_t0 (m : MsgRegs) : (s.setMsg m).t0 = s.t0 := rfl
@[simp] theorem State.setMsg_t1 (m : MsgRegs) : (s.setMsg m).t1 = s.t1 := rfl
@[simp] theorem State.setMsg_upc (m : MsgRegs) : (s.setMsg m).upc = s.upc := rfl
@[simp] theorem State.setMsg_busy (m : MsgRegs) : (s.setMsg m).busy = s.busy := rfl
@[simp] theorem State.setMsg_done (m : MsgRegs) : (s.setMsg m).done = s.done := rfl
@[simp] theorem State.setMsg_agenda (m : MsgRegs) : (s.setMsg m).agenda = s.agenda := rfl
@[simp] theorem State.setMsg_replies (m : MsgRegs) : (s.setMsg m).replies = s.replies := rfl
@[simp] theorem State.setMsg_freeNext (m : MsgRegs) : (s.setMsg m).freeNext = s.freeNext := rfl

/-! `State.setOps` -/

@[simp] theorem State.setOps_rows (b : Operands) : (s.setOps b).rows = s.rows := rfl
@[simp] theorem State.setOps_msg (b : Operands) : (s.setOps b).msg = s.msg := rfl
@[simp] theorem State.setOps_ops (b : Operands) : (s.setOps b).ops = b := rfl
@[simp] theorem State.setOps_t0 (b : Operands) : (s.setOps b).t0 = s.t0 := rfl
@[simp] theorem State.setOps_t1 (b : Operands) : (s.setOps b).t1 = s.t1 := rfl
@[simp] theorem State.setOps_upc (b : Operands) : (s.setOps b).upc = s.upc := rfl
@[simp] theorem State.setOps_busy (b : Operands) : (s.setOps b).busy = s.busy := rfl
@[simp] theorem State.setOps_done (b : Operands) : (s.setOps b).done = s.done := rfl
@[simp] theorem State.setOps_agenda (b : Operands) : (s.setOps b).agenda = s.agenda := rfl
@[simp] theorem State.setOps_replies (b : Operands) : (s.setOps b).replies = s.replies := rfl
@[simp] theorem State.setOps_freeNext (b : Operands) : (s.setOps b).freeNext = s.freeNext := rfl

/-! `State.setControl` -/

@[simp] theorem State.setControl_rows (u : BitVec 7) (p q : Bool) : (s.setControl u p q).rows = s.rows := rfl
@[simp] theorem State.setControl_msg (u : BitVec 7) (p q : Bool) : (s.setControl u p q).msg = s.msg := rfl
@[simp] theorem State.setControl_ops (u : BitVec 7) (p q : Bool) : (s.setControl u p q).ops = s.ops := rfl
@[simp] theorem State.setControl_t0 (u : BitVec 7) (p q : Bool) : (s.setControl u p q).t0 = s.t0 := rfl
@[simp] theorem State.setControl_t1 (u : BitVec 7) (p q : Bool) : (s.setControl u p q).t1 = s.t1 := rfl
@[simp] theorem State.setControl_upc (u : BitVec 7) (p q : Bool) : (s.setControl u p q).upc = u := rfl
@[simp] theorem State.setControl_busy (u : BitVec 7) (p q : Bool) : (s.setControl u p q).busy = p := rfl
@[simp] theorem State.setControl_done (u : BitVec 7) (p q : Bool) : (s.setControl u p q).done = q := rfl
@[simp] theorem State.setControl_agenda (u : BitVec 7) (p q : Bool) : (s.setControl u p q).agenda = s.agenda := rfl
@[simp] theorem State.setControl_replies (u : BitVec 7) (p q : Bool) : (s.setControl u p q).replies = s.replies := rfl
@[simp] theorem State.setControl_freeNext (u : BitVec 7) (p q : Bool) : (s.setControl u p q).freeNext = s.freeNext := rfl

/-! `State.setAgenda` -/

@[simp] theorem State.setAgenda_rows (l : List Event) : (s.setAgenda l).rows = s.rows := rfl
@[simp] theorem State.setAgenda_msg (l : List Event) : (s.setAgenda l).msg = s.msg := rfl
@[simp] theorem State.setAgenda_ops (l : List Event) : (s.setAgenda l).ops = s.ops := rfl
@[simp] theorem State.setAgenda_t0 (l : List Event) : (s.setAgenda l).t0 = s.t0 := rfl
@[simp] theorem State.setAgenda_t1 (l : List Event) : (s.setAgenda l).t1 = s.t1 := rfl
@[simp] theorem State.setAgenda_upc (l : List Event) : (s.setAgenda l).upc = s.upc := rfl
@[simp] theorem State.setAgenda_busy (l : List Event) : (s.setAgenda l).busy = s.busy := rfl
@[simp] theorem State.setAgenda_done (l : List Event) : (s.setAgenda l).done = s.done := rfl
@[simp] theorem State.setAgenda_agenda (l : List Event) : (s.setAgenda l).agenda = l := rfl
@[simp] theorem State.setAgenda_replies (l : List Event) : (s.setAgenda l).replies = s.replies := rfl
@[simp] theorem State.setAgenda_freeNext (l : List Event) : (s.setAgenda l).freeNext = s.freeNext := rfl

/-! `State.addReply` -/

@[simp] theorem State.addReply_rows (a : HostAddr) (w : Word) : (s.addReply a w).rows = s.rows := rfl
@[simp] theorem State.addReply_msg (a : HostAddr) (w : Word) : (s.addReply a w).msg = s.msg := rfl
@[simp] theorem State.addReply_ops (a : HostAddr) (w : Word) : (s.addReply a w).ops = s.ops := rfl
@[simp] theorem State.addReply_t0 (a : HostAddr) (w : Word) : (s.addReply a w).t0 = s.t0 := rfl
@[simp] theorem State.addReply_t1 (a : HostAddr) (w : Word) : (s.addReply a w).t1 = s.t1 := rfl
@[simp] theorem State.addReply_upc (a : HostAddr) (w : Word) : (s.addReply a w).upc = s.upc := rfl
@[simp] theorem State.addReply_busy (a : HostAddr) (w : Word) : (s.addReply a w).busy = s.busy := rfl
@[simp] theorem State.addReply_done (a : HostAddr) (w : Word) : (s.addReply a w).done = s.done := rfl
@[simp] theorem State.addReply_agenda (a : HostAddr) (w : Word) : (s.addReply a w).agenda = s.agenda := rfl
@[simp] theorem State.addReply_replies (a : HostAddr) (w : Word) : (s.addReply a w).replies = s.replies ++ [⟨a, w⟩] := rfl
@[simp] theorem State.addReply_freeNext (a : HostAddr) (w : Word) : (s.addReply a w).freeNext = s.freeNext := rfl

/-! `State.clobberScratch` -/

@[simp] theorem State.clobberScratch_rows : (s.clobberScratch).rows = s.rows := rfl
@[simp] theorem State.clobberScratch_msg : (s.clobberScratch).msg = s.msg := rfl
@[simp] theorem State.clobberScratch_ops : (s.clobberScratch).ops = s.ops := rfl
@[simp] theorem State.clobberScratch_t0 : (s.clobberScratch).t0 = Config.freeVec s.freeNext := rfl
@[simp] theorem State.clobberScratch_t1 : (s.clobberScratch).t1 = Config.freeVec (s.freeNext + 1) := rfl
@[simp] theorem State.clobberScratch_upc : (s.clobberScratch).upc = s.upc := rfl
@[simp] theorem State.clobberScratch_busy : (s.clobberScratch).busy = s.busy := rfl
@[simp] theorem State.clobberScratch_done : (s.clobberScratch).done = s.done := rfl
@[simp] theorem State.clobberScratch_agenda : (s.clobberScratch).agenda = s.agenda := rfl
@[simp] theorem State.clobberScratch_replies : (s.clobberScratch).replies = s.replies := rfl
@[simp] theorem State.clobberScratch_freeNext : (s.clobberScratch).freeNext = s.freeNext + 2 := rfl

/-! `State.applyReset` -/

@[simp] theorem State.applyReset_rows : (s.applyReset).rows = (State.resetDraw s.freeNext).rows := rfl
@[simp] theorem State.applyReset_msg : (s.applyReset).msg = (State.resetDraw s.freeNext).msg := rfl
@[simp] theorem State.applyReset_ops : (s.applyReset).ops = (State.resetDraw s.freeNext).ops := rfl
@[simp] theorem State.applyReset_t0 : (s.applyReset).t0 = Config.freeVec (s.freeNext + 20) := rfl
@[simp] theorem State.applyReset_t1 : (s.applyReset).t1 = Config.freeVec (s.freeNext + 21) := rfl
@[simp] theorem State.applyReset_upc : (s.applyReset).upc = 0 := rfl
@[simp] theorem State.applyReset_busy : (s.applyReset).busy = false := rfl
@[simp] theorem State.applyReset_done : (s.applyReset).done = false := rfl
@[simp] theorem State.applyReset_agenda : (s.applyReset).agenda = s.agenda := rfl
@[simp] theorem State.applyReset_replies : (s.applyReset).replies = s.replies := rfl
@[simp] theorem State.applyReset_freeNext : (s.applyReset).freeNext = s.freeNext + 22 := rfl

/-! `State.reset` -/

@[simp] theorem State.reset_upc : State.reset.upc = 0 := rfl
@[simp] theorem State.reset_busy : State.reset.busy = false := rfl
@[simp] theorem State.reset_done : State.reset.done = false := rfl
@[simp] theorem State.reset_agenda : State.reset.agenda = [] := rfl
@[simp] theorem State.reset_replies : State.reset.replies = [] := rfl

/-! The word views follow the registers. -/

@[simp] theorem State.setRows_v (r : Rows) : (s.setRows r).v = r.words := rfl
@[simp] theorem State.setMsg_m (m : MsgRegs) : (s.setMsg m).m = m.words := rfl
@[simp] theorem State.setOps_v (b : Operands) : (s.setOps b).v = s.v := rfl
@[simp] theorem State.setControl_v (u : BitVec 7) (p q : Bool) : (s.setControl u p q).v = s.v := rfl
@[simp] theorem State.setAgenda_v (l : List Event) : (s.setAgenda l).v = s.v := rfl
@[simp] theorem State.clobberScratch_v : s.clobberScratch.v = s.v := rfl

end Sys2Proof.Machine
end

