-- ==== Sys2Proof/Laws/HostPort.lean ====
section
/-! SUPPORT. What packing, the host window and one event do, one lemma each, so that a proof need not unfold them. -/

namespace Sys2Proof.Machine

/-- Unpacking packed row registers gives the words back. -/
@[simp] theorem rows_words_ofWords (v : Words) : (Rows.ofWords v).words = v := by
  ext i hi
  interval_cases i <;> rfl

/-- Packing the words of row registers gives the registers back. -/
@[simp] theorem rows_ofWords_words (r : Rows) : Rows.ofWords r.words = r := rfl

/-- Unpacking packed message registers gives the words back. -/
@[simp] theorem msg_words_ofWords (v : Words) : (MsgRegs.ofWords v).words = v := by
  ext i hi
  interval_cases i <;> rfl

/-- Packing the words of message registers gives the registers back. -/
@[simp] theorem msg_ofWords_words (m : MsgRegs) : MsgRegs.ofWords m.words = m := rfl

/-- Every address of the window is a `V` word, a `MSG` word, `CTRL`, `STATUS` or reserved. -/
theorem hostAddr_cases (a : HostAddr) :
    (∃ i : Fin 16, a = BitVec.ofNat 6 i.val) ∨ (∃ i : Fin 16, a = BitVec.ofNat 6 (0x10 + i.val)) ∨
    a = Config.ctrlAddr ∨ a = Config.statusAddr ∨ 0x22 ≤ a.toNat := by
  revert a; decide

/-- While `BUSY` = 1 a write is dropped. -/
theorem hwrite_busy {s : State} (h : s.busy = true) (a : HostAddr) (d : Word) : hwrite s a d = s := if_pos h

/-- What a write of `V[i]` does. -/
theorem hwrite_v {s : State} (h : s.busy = false) (i : Fin 16) (d : Word) :
    hwrite s (BitVec.ofNat 6 i.val) d = s.setRows (s.rows.setWord i d) := by
  unfold hwrite; rw [h]
  fin_cases i <;> rfl

/-- What a write of `MSG[i]` does. -/
theorem hwrite_msg {s : State} (h : s.busy = false) (i : Fin 16) (d : Word) :
    hwrite s (BitVec.ofNat 6 (0x10 + i.val)) d = s.setMsg (s.msg.setWord i d) := by
  unfold hwrite; rw [h]
  fin_cases i <;> rfl

/-- A step with nothing on the agenda is the sequencer's turn. -/
theorem step_of_empty {s : State} (h : s.agenda = []) : step s = seqTurn s := by unfold step; rw [h]

/-- A step with an event on the agenda performs it and takes it off. -/
theorem step_of_event {s : State} {e : Event} {rest : List Event} (h : s.agenda = e :: rest) :
    step s = eventTurn e (s.setAgenda rest) := by unfold step; rw [h]

end Sys2Proof.Machine
end

