-- ==== Sys2Proof/Laws/PerInstr.lean ====
section
/-! SUPPORT. Statements made per instruction, about the instruction as syntax. Family `FitsRow`: the byte an instruction is
encoded as fits the mask and match of its row of the opcode table (spec/30_encoding.md R82). -/

namespace Sys2Proof.Laws.FitsRow

/-- The encoding fits the instruction's row of the opcode table. -/
def Statement (i : Instr) : Prop := i.row ∈ opcodeTable ∧ i.row.fits (encode i) = true

theorem sched (r : BitVec 4) (h : Half) : Statement (.sched r h) := by
  refine ⟨List.mem_cons_self, ?_⟩
  cases h <;> revert r <;> decide

theorem g1 : Statement .g1 := ⟨by decide, by decide⟩

theorem g2 : Statement .g2 := ⟨by decide, by decide⟩

theorem diag : Statement .diag := ⟨by decide, by decide⟩

theorem undiag : Statement .undiag := ⟨by decide, by decide⟩

end Sys2Proof.Laws.FitsRow
end

