-- ==== Sys2Proof/Laws/Step.lean ====
section
/-! SUPPORT. Once each, everything a shared operation can do: `exec`, the sequencer step, a host write, a step. Later
proofs cite these and do not unfold the operations. -/

namespace Sys2Proof.Machine

/-- Everything a micro-operation that runs can do. -/
theorem exec_cases {i : Instr} {s t : State} (h : exec i s = .next t) :
    (∃ (r : BitVec 4) (k : Half) (hr : r.toNat < 12), i = .sched r k ∧ t = s.setOps (schedOperands ⟨r.toNat, hr⟩ k s.msg)) ∨
    (i = .g1 ∧ t = s.setRows (gstep .by32 .by24 s.ops.b0 s.ops.b1 s.rows)) ∨
    (i = .g2 ∧ t = s.setRows (gstep .by16 .by63 s.ops.b2 s.ops.b3 s.rows)) ∨
    (i = .diag ∧ t = s.clobberScratch.setRows (diagRows s.rows)) ∨
    (i = .undiag ∧ t = s.clobberScratch.setRows (undiagRows s.rows)) := by
  cases i with
  | sched r k =>
    by_cases hr : r.toNat < 12
    · simp only [exec, execSched, hr, dite_true, Host.Outcome.next.injEq] at h
      exact .inl ⟨r, k, hr, rfl, h.symm⟩
    · simp [exec, execSched, hr] at h
  | g1 => exact .inr (.inl ⟨rfl, by simpa [exec, execG1] using h.symm⟩)
  | g2 => exact .inr (.inr (.inl ⟨rfl, by simpa [exec, execG2] using h.symm⟩))
  | diag => exact .inr (.inr (.inr (.inl ⟨rfl, by simpa [exec, execDiag] using h.symm⟩)))
  | undiag => exact .inr (.inr (.inr (.inr ⟨rfl, by simpa [exec, execUndiag] using h.symm⟩)))

/-- The one micro-operation that can be refused, and when. -/
theorem exec_refused {i : Instr} {s : State} {q : Refusal} (h : exec i s = .refused q) :
    ∃ (r : BitVec 4) (k : Half), i = .sched r k ∧ 12 ≤ r.toNat ∧ q = .reservedRound r := by
  cases i with
  | sched r k =>
    by_cases hr : r.toNat < 12
    · simp [exec, execSched, hr] at h
    · simp only [exec, execSched, hr, dite_false, Host.Outcome.refused.injEq] at h
      exact ⟨r, k, rfl, by omega, h.symm⟩
  | g1 => simp [exec, execG1] at h
  | g2 => simp [exec, execG2] at h
  | diag => simp [exec, execDiag] at h
  | undiag => simp [exec, execUndiag] at h

/-- A sequencer step that has a next state fetched and decoded an instruction, ran it, and advanced. -/
theorem seqStep_next {s t : State} (h : seqStep s = .next t) :
    ∃ (b : Byte) (i : Instr) (u : State),
      fetch s.upc = some b ∧ decode b = .instr i ∧ exec i s = .next u ∧ t = advance s.upc u := by
  unfold seqStep at h
  split at h
  · cases h
  · rename_i b hb
    split at h
    · cases h
    · rename_i i hi
      split at h
      · rename_i u hu
        exact ⟨b, i, u, hb, hi, hu, by simpa using h.symm⟩
      · cases h
      · cases h

/-- The other direction: what the sequencer step is, given what it fetched. -/
theorem seqStep_of {s u : State} {b : Byte} {i : Instr} (hb : fetch s.upc = some b) (hi : decode b = .instr i)
    (hu : exec i s = .next u) : seqStep s = .next (advance s.upc u) := by
  simp [seqStep, hb, hi, hu]

/-- The sequencer's turn with `BUSY` = 1 is its step. -/
theorem seqTurn_busy {s : State} (h : s.busy = true) : seqTurn s = seqStep s := by simp [seqTurn, h]

/-- The sequencer's turn with `BUSY` = 0 does nothing. -/
theorem seqTurn_idle {s : State} (h : s.busy = false) : seqTurn s = .next s := by simp [seqTurn, h]

/-- A fetch succeeds exactly at the ROM's 96 addresses. -/
theorem fetch_isSome_iff (u : BitVec 7) : (fetch u).isSome = true ↔ u.toNat ≤ 95 := by
  revert u; decide

/-- What `advance` makes of the control bits at the last ROM entry. -/
theorem advance_last (s : State) : advance 95 s = s.setControl 0 false true := by
  simp [advance, Config.lastUpc]

/-- What `advance` makes of the control bits anywhere else. -/
theorem advance_inner {u : BitVec 7} (s : State) (h : u ≠ 95) : advance u s = s.setControl (u + 1) s.busy s.done := if_neg h

@[simp] theorem advance_rows (u : BitVec 7) (s : State) : (advance u s).rows = s.rows := by unfold advance; split <;> rfl
@[simp] theorem advance_msg (u : BitVec 7) (s : State) : (advance u s).msg = s.msg := by unfold advance; split <;> rfl
@[simp] theorem advance_ops (u : BitVec 7) (s : State) : (advance u s).ops = s.ops := by unfold advance; split <;> rfl
@[simp] theorem advance_t0 (u : BitVec 7) (s : State) : (advance u s).t0 = s.t0 := by unfold advance; split <;> rfl
@[simp] theorem advance_t1 (u : BitVec 7) (s : State) : (advance u s).t1 = s.t1 := by unfold advance; split <;> rfl
@[simp] theorem advance_agenda (u : BitVec 7) (s : State) : (advance u s).agenda = s.agenda := by
  unfold advance; split <;> rfl
@[simp] theorem advance_replies (u : BitVec 7) (s : State) : (advance u s).replies = s.replies := by
  unfold advance; split <;> rfl
@[simp] theorem advance_freeNext (u : BitVec 7) (s : State) : (advance u s).freeNext = s.freeNext := by
  unfold advance; split <;> rfl

/-- Everything a host write can do. -/
theorem hwrite_cases (s : State) (a : HostAddr) (d : Word) :
    hwrite s a d = s ∨
    (s.busy = false ∧ ∃ (i : Fin 16), a.toNat = i.val ∧ hwrite s a d = s.setRows (s.rows.setWord i d)) ∨
    (s.busy = false ∧ ∃ (i : Fin 16), a.toNat = 16 + i.val ∧ hwrite s a d = s.setMsg (s.msg.setWord i d)) ∨
    (s.busy = false ∧ a = 0x20 ∧ d.getLsbD 0 = true ∧ hwrite s a d = s.setControl 0 true false) := by
  unfold hwrite
  split
  · exact .inl rfl
  · rename_i hb
    have hb : s.busy = false := by simpa using hb
    have hi : ∀ k : HostAddr, (wordIndex k).val = k.toNat % 16 := fun _ => rfl
    split
    · rename_i hv
      have hv : a.toNat ≤ 15 := hv
      exact .inr (.inl ⟨hb, wordIndex a, by rw [hi]; omega, rfl⟩)
    · rename_i hv
      have hv : ¬a.toNat ≤ 15 := hv
      split
      · rename_i hm
        have hm : a.toNat ≤ 31 := hm
        exact .inr (.inr (.inl ⟨hb, wordIndex a, by rw [hi]; omega, rfl⟩))
      · split
        · rename_i ha
          split
          · rename_i hd
            exact .inr (.inr (.inr ⟨hb, ha, hd, by simp [start, hb]⟩))
          · exact .inl rfl
        · exact .inl rfl

/-- Everything a step that has a next state can do: idle, a sequencer step, a host read, a host write, reset. -/
theorem step_cases {s t : State} (h : step s = .next t) :
    (seqMoves s ∧ s.busy = false ∧ t = s.setAgenda s.agenda.tail) ∨
    (seqMoves s ∧ s.busy = true ∧ seqStep (s.setAgenda s.agenda.tail) = .next t) ∨
    (∃ a rest, s.agenda = .host (.read a) :: rest ∧ t = (s.setAgenda rest).addReply a (hread (s.setAgenda rest) a)) ∨
    (∃ a d rest, s.agenda = .host (.write a d) :: rest ∧ t = hwrite (s.setAgenda rest) a d) ∨
    (∃ rest, s.agenda = .reset :: rest ∧ t = (s.setAgenda rest).applyReset) := by
  have idle : ∀ u : State, seqTurn u = .next t → (u.busy = false ∧ t = u) ∨ (u.busy = true ∧ seqStep u = .next t) := by
    intro u hu
    cases hb : u.busy with
    | false => rw [seqTurn_idle hb, Host.Outcome.next.injEq] at hu; exact .inl ⟨rfl, hu.symm⟩
    | true => rw [seqTurn_busy hb] at hu; exact .inr ⟨rfl, hu⟩
  unfold step at h
  split at h
  · rename_i ha
    have hs : s.setAgenda s.agenda.tail = s := by cases s; simp_all [State.setAgenda]
    rw [hs]
    rcases idle s h with ⟨hb, ht⟩ | ⟨hb, ht⟩
    · exact .inl ⟨.inl ha, hb, ht⟩
    · exact .inr (.inl ⟨.inl ha, hb, ht⟩)
  · rename_i e rest ha
    cases e with
    | sequencer =>
      rw [ha, List.tail_cons]
      rcases idle _ h with ⟨hb, ht⟩ | ⟨hb, ht⟩
      · exact .inl ⟨.inr ⟨rest, ha⟩, hb, ht⟩
      · exact .inr (.inl ⟨.inr ⟨rest, ha⟩, hb, ht⟩)
    | host c =>
      cases c with
      | read a =>
        simp only [eventTurn, hostTurn, Host.Outcome.next.injEq] at h
        exact .inr (.inr (.inl ⟨a, rest, ha, h.symm⟩))
      | write a d =>
        simp only [eventTurn, hostTurn, Host.Outcome.next.injEq] at h
        exact .inr (.inr (.inr (.inl ⟨a, d, rest, ha, h.symm⟩)))
    | reset =>
      simp only [eventTurn, Host.Outcome.next.injEq] at h
      exact .inr (.inr (.inr (.inr ⟨rest, ha, h.symm⟩)))

@[simp] theorem runSteps_zero (s : State) : runSteps 0 s = .next s := rfl

/-- One step more at the front of a run. -/
theorem runSteps_succ {k : Nat} {s t : State} (h : step s = .next t) : runSteps (k + 1) s = runSteps k t := by
  simp [runSteps, h]

/-- Two runs, one after the other. -/
theorem runSteps_add {j k : Nat} {s t : State} (h : runSteps j s = .next t) : runSteps (j + k) s = runSteps k t := by
  induction j generalizing s with
  | zero => rw [runSteps_zero, Host.Outcome.next.injEq] at h; rw [Nat.zero_add, h]
  | succ j ih =>
    rw [Nat.succ_add]
    cases hs : step s with
    | next u => rw [runSteps_succ hs] at h ⊢; exact ih h
    | fault f => simp [runSteps, hs] at h
    | refused r => simp [runSteps, hs] at h

/-- The runner of the statements is the host's. -/
theorem runSteps_eq_core_run (k : Nat) (s : State) : runSteps k s = Host.Core.run core k s := by
  induction k generalizing s with
  | zero => rfl
  | succ k ih =>
    cases hs : step s with
    | next t => rw [runSteps_succ hs, ih]; simp only [Host.Core.run, show core.step s = .next t from hs]; rfl
    | fault f => simp only [runSteps, hs, Host.Core.run, show core.step s = .fault f from hs]; rfl
    | refused r => simp only [runSteps, hs, Host.Core.run, show core.step s = .refused r from hs]; rfl

end Sys2Proof.Machine
end

