-- ==== Sys2Proof/Tests/Slice0.lean ====
section
/-! SUPPORT. Tests against the spec's own numbers (spec/95_test_vectors.md), one micro-operation or one transaction
each; and, for every statement with hypotheses, a state and operands that meet them. -/

namespace Sys2Proof.Tests

open Sys2Proof.Machine

/-! ### Small states -/

/-- `V[i]` = `MSG[i]` = i, the start of program P3. -/
def idx : Words := #v[0, 1, 2, 3, 4, 5, 6, 7, 8, 9, 10, 11, 12, 13, 14, 15]

/-- `MSG[i]` = i * 0x1000000000000001, the message of spec/95_test_vectors.md section 4. -/
def nibbles : Words := #v[0x0000000000000000, 0x1000000000000001, 0x2000000000000002, 0x3000000000000003,
  0x4000000000000004, 0x5000000000000005, 0x6000000000000006, 0x7000000000000007,
  0x8000000000000008, 0x9000000000000009, 0xA00000000000000A, 0xB00000000000000B,
  0xC00000000000000C, 0xD00000000000000D, 0xE00000000000000E, 0xF00000000000000F]

/-- `V[i]` = 0x1000 + i, the start of spec/95_test_vectors.md section 5. -/
def marked : Words := #v[0x1000, 0x1001, 0x1002, 0x1003,
  0x1004, 0x1005, 0x1006, 0x1007,
  0x1008, 0x1009, 0x100A, 0x100B,
  0x100C, 0x100D, 0x100E, 0x100F]

/-- An idle machine that holds `v` and `m`, with zero operand and scratch registers. -/
def idle (v m : Words) : State where
  rows := Rows.ofWords v
  msg := MsgRegs.ofWords m
  ops := ⟨⟨0, 0⟩, ⟨0, 0⟩, ⟨0, 0⟩, ⟨0, 0⟩⟩
  t0 := ⟨0, 0⟩
  t1 := ⟨0, 0⟩
  upc := 0
  busy := false
  done := false
  agenda := []
  replies := []
  freeNext := 0

/-- A machine with an invocation running, at ROM address `u`. -/
def running (v m : Words) (u : BitVec 7) : State := { idle v m with upc := u, busy := true }

/-- What a next state shows of itself. -/
def look {α : Type} (f : State → α) (o : Host.Outcome State Fault Refusal) : Option α :=
  match o with
  | .next t => some (f t)
  | .fault _ => none
  | .refused _ => none

/-- The reason a step was refused. -/
def refusal (o : Host.Outcome State Fault Refusal) : Option Refusal :=
  match o with
  | .next _ => none
  | .fault _ => none
  | .refused r => some r

/-- `UPC`, `BUSY`, `DONE`. -/
def ctl (s : State) : BitVec 7 × Bool × Bool := (s.upc, s.busy, s.done)

/-! ### WellFormed -/

theorem test_wellFormed_refuses_round_12 : (Instr.sched 12 .column).wellFormed = false := by decide
theorem test_wellFormed_refuses_round_15 : (Instr.sched 15 .diagonal).wellFormed = false := by decide
theorem test_wellFormed_accepts_round_11 : (Instr.sched 11 .diagonal).wellFormed = true := by decide

/-! ### Decoding, words written out bit by bit from spec/30_encoding.md R82 -/

theorem test_decode_sched_0_column : decode 0b00000000 = .instr (.sched 0 .column) := by decide
theorem test_decode_sched_5_column : decode 0b00000101 = .instr (.sched 5 .column) := by decide
theorem test_decode_sched_11_diagonal : decode 0b00011011 = .instr (.sched 11 .diagonal) := by decide
theorem test_decode_g1 : decode 0b00100000 = .instr .g1 := by decide
theorem test_decode_g2 : decode 0b01000000 = .instr .g2 := by decide
theorem test_decode_diag : decode 0b01100000 = .instr .diag := by decide
theorem test_decode_undiag : decode 0b10000000 = .instr .undiag := by decide

/-- The refused bytes of spec/95_test_vectors.md section 7, each by its class of R85. -/
theorem test_decode_reserved :
    [0x0C, 0x0F, 0x1C].map decode = List.replicate 3 (.reserved .schedRound) ∧
    [0x21, 0x30, 0x4B, 0x70, 0x81].map decode = List.replicate 5 (.reserved .operandBits) ∧
    [0xA0, 0xC0, 0xE0, 0xFF].map decode = List.replicate 4 (.reserved .opcode) := by decide

theorem test_decodeTableWord : decodeTableWord 8 0x1B = some (.sched 11 .diagonal) ∧ decodeTableWord 8 0x1C = none := by
  decide

theorem test_asm : (Instr.sched 11 .diagonal).asm = "SCHED 11, D" := by decide

/-! ### Rotation (spec/95_test_vectors.md section 2) -/

theorem test_rotr64 :
    rotr64 0x0123456789ABCDEF .by32 = 0x89ABCDEF01234567 ∧ rotr64 0x0123456789ABCDEF .by24 = 0xABCDEF0123456789 ∧
    rotr64 0x0123456789ABCDEF .by16 = 0xCDEF0123456789AB ∧ rotr64 0x0123456789ABCDEF .by63 = 0x02468ACF13579BDE := by
  decide

theorem test_vrotr_lanes_do_not_mix :
    vrotr ⟨0x0123456789ABCDEF, 0x8000000000000000⟩ .by63 = ⟨0x02468ACF13579BDE, 0x0000000000000001⟩ := by decide

/-- The pair form against the 128-bit view (spec/00_scope.md R14). -/
theorem test_pair_form : VReg.toBits ⟨1, 2⟩ = 0x00000000000000020000000000000001 ∧
    VReg.ofBits 0x00000000000000020000000000000001 = ⟨1, 2⟩ := by decide

/-! ### One micro-operation (spec/95_test_vectors.md sections 3 to 5, 8) -/

/-- Section 3, whole registers: no carry crosses lanes. -/
theorem test_g1_no_carry_between_lanes :
    look (fun t => t.v) (exec .g1 ((idle ((idx.set 4 0xFFFFFFFFFFFFFFFF).set 5 0xFFFFFFFFFFFFFFFF) idx).setOps
      ⟨⟨1, 1⟩, ⟨0, 0⟩, ⟨0, 0⟩, ⟨0, 0⟩⟩)) =
    some #v[0x0000000000000000, 0x0000000000000001, 0x0000000000000008, 0x000000000000000A,
      0xFFFFF7FFFFFFF3FF, 0xFFFFF6FFFFFFF3FF, 0x00000C0000000600, 0x00000C0000000500,
      0x0000000C00000008, 0x0000000C00000009, 0x000000060000000A, 0x000000050000000B,
      0x0000000C00000000, 0x0000000C00000000, 0x0000000600000000, 0x0000000500000000] := by decide

/-- Program P3, step 1. -/
theorem test_g1_step_1_of_P3 :
    look (fun t => t.v) (exec .g1 ((idle idx idx).setOps ⟨⟨0, 2⟩, ⟨4, 6⟩, ⟨1, 3⟩, ⟨5, 7⟩⟩)) =
    some #v[0x0000000000000004, 0x0000000000000008, 0x000000000000000C, 0x0000000000000010,
      0x00000C0000000800, 0x00000C0000000500, 0x00000C0000000200, 0x00000C0000001F00,
      0x0000000800000008, 0x0000000500000009, 0x000000020000000A, 0x0000001F0000000B,
      0x0000000800000000, 0x0000000500000000, 0x0000000200000000, 0x0000001F00000000] := by decide

/-- Program P3, step 2, from the state the spec lists after step 1. -/
theorem test_g2_step_2_of_P3 :
    look (fun t => t.v) (exec .g2 ((idle #v[0x0000000000000004, 0x0000000000000008, 0x000000000000000C, 0x0000000000000010,
      0x00000C0000000800, 0x00000C0000000500, 0x00000C0000000200, 0x00000C0000001F00,
      0x0000000800000008, 0x0000000500000009, 0x000000020000000A, 0x0000001F0000000B,
      0x0000000800000000, 0x0000000500000000, 0x0000000200000000, 0x0000001F00000000] idx).setOps
      ⟨⟨0, 2⟩, ⟨4, 6⟩, ⟨1, 3⟩, ⟨5, 7⟩⟩)) =
    some #v[0x00000C0000000805, 0x00000C000000050B, 0x00000C0000000211, 0x00000C0000001F17,
      0x100A181018101010, 0x0A16180A180A0A12, 0x0422180418040414, 0x3E2E183E183E3E16,
      0x080500080C080008, 0x050B00050C050009, 0x021100020C02000A, 0x1F17001F0C1F000B,
      0x080500000C080000, 0x050B00000C050000, 0x021100000C020000, 0x1F1700000C1F0000] := by decide

/-- Section 3, `G2` on the words of the row "mixed", at position 0 (the other positions hold zeros). -/
theorem test_g2_mixed :
    look (fun t => (t.v[0], t.v[4], t.v[8], t.v[12])) (exec .g2 ((idle #v[0x0123456789ABCDEF, 0, 0, 0,
      0xFEDCBA9876543210, 0, 0, 0, 0x0F1E2D3C4B5A6978, 0, 0, 0, 0x8796A5B4C3D2E1F0, 0, 0, 0] idx).setOps
      ⟨⟨0, 0⟩, ⟨0, 0⟩, ⟨0xDEADBEEFCAFEF00D, 0⟩, ⟨0, 0⟩⟩)) =
    some (0xDEADBEEFCAFEF00C, 0xBF8C79DE21C28169, 0x211A867766B572A4, 0x11FC593B1B5B092C) := by decide

/-- Section 4, `SCHED 9, D`. -/
theorem test_sched_9_diagonal :
    look (fun t => t.ops) (exec (.sched 9 .diagonal) (idle idx nibbles)) =
    some ⟨⟨0xF00000000000000F, 0x9000000000000009⟩, ⟨0x3000000000000003, 0xD00000000000000D⟩,
      ⟨0xB00000000000000B, 0xE00000000000000E⟩, ⟨0xC00000000000000C, 0x0000000000000000⟩⟩ := by decide

/-- Section 4, `SCHED 11, C`. -/
theorem test_sched_11_column :
    look (fun t => t.ops) (exec (.sched 11 .column) (idle idx nibbles)) =
    some ⟨⟨0xE00000000000000E, 0x4000000000000004⟩, ⟨0x9000000000000009, 0xD00000000000000D⟩,
      ⟨0xA00000000000000A, 0x8000000000000008⟩, ⟨0xF00000000000000F, 0x6000000000000006⟩⟩ := by decide

/-- Section 5, `DIAG`. -/
theorem test_diag :
    look (fun t => t.v) (exec .diag (idle marked idx)) =
    some #v[0x1000, 0x1001, 0x1002, 0x1003, 0x1005, 0x1006, 0x1007, 0x1004,
      0x100A, 0x100B, 0x1008, 0x1009, 0x100F, 0x100C, 0x100D, 0x100E] := by decide

/-- Section 5, `UNDIAG` alone on the same start. -/
theorem test_undiag :
    look (fun t => t.v) (exec .undiag (idle marked idx)) =
    some #v[0x1000, 0x1001, 0x1002, 0x1003, 0x1007, 0x1004, 0x1005, 0x1006,
      0x100A, 0x100B, 0x1008, 0x1009, 0x100D, 0x100E, 0x100F, 0x100C] := by decide

/-! ### The sequencer and the host port, one step each (spec/95_test_vectors.md section 7) -/

theorem test_first_step_advances : look ctl (step (running idx idx 0)) = some (1, true, false) := by decide
theorem test_last_step_completes : look ctl (step (running idx idx 95)) = some (0, false, true) := by decide
theorem test_step_outside_the_rom_is_refused : refusal (step (running idx idx 96)) = some (.noRomEntry 96) := by decide
theorem test_reset_state : ctl State.reset = (0, false, false) ∧ hread State.reset 0x21 = 0 := by decide

/-- Rows 2 and 3 of the table: lane 1 of `R2L` is written, lane 0 is not. -/
theorem test_hwrite_V5 : (hwrite (idle idx idx) 0x05 0xAA).rows.r2l = ⟨4, 0xAA⟩ ∧
    hread (hwrite (idle idx idx) 0x05 0xAA) 0x05 = 0xAA := by decide

/-- Row 4 of the table. -/
theorem test_hwrite_MSG15 : (hwrite (idle idx idx) 0x1F 7).msg.mw7 = ⟨14, 7⟩ := by decide

/-- Rows 5, 7, 8 of the table. -/
theorem test_ctrl_and_reserved : hread (idle idx idx) 0x20 = 0 ∧ hread (idle idx idx) 0x3F = 0 ∧
    hwrite (idle idx idx) 0x20 2 = idle idx idx ∧ hwrite (idle idx idx) 0x21 0xFFFFFFFFFFFFFFFF = idle idx idx := by decide

/-- Rows 9 and 15 of the table: `START`, and `START` again with bit 1 set too after `DONE`. -/
theorem test_start : ctl (hwrite (idle idx idx) 0x20 1) = (0, true, false) ∧
    ctl (hwrite { idle idx idx with done := true } 0x20 3) = (0, true, false) := by decide

/-- Rows 10 to 12 of the table. -/
theorem test_busy_host : hread (running idx idx 40) 0x21 = 1 ∧ hwrite (running idx idx 40) 0x05 0 = running idx idx 40 ∧
    hwrite (running idx idx 40) 0x20 1 = running idx idx 40 := by decide

/-- Rows 13 and 14 of the table. -/
theorem test_done_is_sticky : hread { idle idx idx with done := true } 0x21 = 2 ∧
    hread (hwrite { idle idx idx with done := true } 0x00 0) 0x21 = 2 := by decide

/-- The host's placement of a word: the next step runs that instruction (log 13). -/
theorem test_withFetchWord :
    look (fun t => t.upc) (step (State.reset.withFetchWord 8 0x80)) = some 8 ∧
    look (fun t => t.rows) (step ((idle marked idx).withFetchWord 8 0x60)) = look (fun t => t.rows) (exec .diag (idle marked idx)) ∧
    refusal (step (State.reset.withFetchWord 8 0x0C)) = some (.noRomEntry 127) := by decide

/-! ### Witnesses: what the hypotheses of the statements ask for exists, at the edges of each clause -/

theorem witness_DecodeOfEncodeIsInstr : (Instr.sched 0 .column).wellFormed = true ∧
    (Instr.sched 11 .diagonal).wellFormed = true ∧ Instr.g1.wellFormed = true ∧ Instr.g2.wellFormed = true ∧
    Instr.diag.wellFormed = true ∧ Instr.undiag.wellFormed = true := by decide

theorem witness_EncodeOfDecodeIsByte : decode 0x1B = .instr (.sched 11 .diagonal) ∧ decode 0x80 = .instr .undiag := by
  decide

theorem witness_OpcodeTableDecidesDecoding : decode 0x20 = .instr .g1 ∧
    ((0x0B : Byte) &&& 0xE0 = 0 ∧ ((0x0B : Byte) &&& 0x0F).toNat ≤ 11) ∧
    ((0x1B : Byte) &&& 0xE0 = 0 ∧ ((0x1B : Byte) &&& 0x0F).toNat ≤ 11) := by decide

theorem witness_ReservedBytesAreRefused : ∃ b ∈ ([0x20, 0x0C] : List Byte), isReserved b = true := by decide

theorem witness_LegalTestProgramRuns : ∀ b ∈ ([0x0B, 0x1B, 0x20, 0x40, 0x60, 0x80] : List Byte), isReserved b = false := by
  decide

theorem witness_ReservedRoundIsRefused : 12 ≤ (12 : BitVec 4).toNat ∧ 12 ≤ (15 : BitVec 4).toNat := by decide

theorem witness_RomImageIsTheSpecs : (fetch 0 = some 0x00 ∧ stepField 0 = 0) ∧ (fetch 92 = some 0x1B ∧ stepField 92 = 4) := by
  decide

theorem witness_StepRunsDecodedInstr :
    ((running idx idx 0).busy = true ∧ seqMoves (running idx idx 0) ∧ rom[(running idx idx 0).upc.toNat]? = some 0x00 ∧
      decode 0x00 = .instr (.sched 0 .column) ∧
      ∃ t, exec (.sched 0 .column) ((running idx idx 0).setAgenda (running idx idx 0).agenda.tail) = .next t) ∧
    (let s := (running idx idx 95).setAgenda [.sequencer, startCmd];
      s.busy = true ∧ seqMoves s ∧ rom[s.upc.toNat]? = some 0x80 ∧ decode 0x80 = .instr .undiag ∧
      ∃ t, exec .undiag (s.setAgenda s.agenda.tail) = .next t) ∧
    ((95 : BitVec 7).toNat ≤ 95) ∧
    ((idle idx idx).busy = false ∧ seqMoves (idle idx idx) ∧ seqMoves ((idle idx idx).setAgenda [.sequencer])) :=
  ⟨⟨rfl, .inl rfl, by decide, by decide, _, rfl⟩, ⟨rfl, .inr ⟨_, rfl⟩, by decide, by decide, _, rfl⟩, by decide,
    rfl, .inl rfl, .inr ⟨_, rfl⟩⟩

theorem witness_StepKeepsLegalState :
    (LegalState (running idx idx 95) ∧ ∃ t, step (running idx idx 95) = .next t) ∧
    (LegalState { idle idx idx with done := true, agenda := [startCmd] } ∧
      ∃ t, step { idle idx idx with done := true, agenda := [startCmd] } = .next t) :=
  ⟨⟨by decide, _, rfl⟩, by decide, _, rfl⟩

theorem witness_NothingFaults : (Instr.sched 11 .diagonal).wellFormed = true ∧ LegalState (running idx idx 95) ∧
    LegalState (idle idx idx) := by decide

theorem witness_ControlIgnoresData :
    (SameControl (running idx idx 95) (running marked nibbles 95) ∧ ∃ t, step (running idx idx 95) = .next t) ∧
    (SameControl (running idx idx 96) (running marked nibbles 96) ∧ step (running idx idx 96) = .refused (.noRomEntry 96)) ∧
    ((running idx idx 0).busy = true ∧ (running idx idx 0).upc = 0 ∧ (running idx idx 0).agenda = [] ∧ 95 < 96) :=
  ⟨⟨⟨rfl, rfl, rfl, rfl⟩, _, rfl⟩, ⟨⟨rfl, rfl, rfl, rfl⟩, rfl⟩, rfl, rfl, rfl, by decide⟩

/-- One state for each way `UPC` can move; the third is one no run reaches (an idle machine has `UPC` = 0). -/
theorem witness_UpcMovesOnlyBySequencing :
    (∃ t, step (running idx idx 94) = .next t ∧ t.upc ≠ (running idx idx 94).upc) ∧
    (∃ t, step (running idx idx 95) = .next t ∧ t.upc ≠ (running idx idx 95).upc) ∧
    (∃ t, step { idle idx idx with upc := 5, agenda := [startCmd] } = .next t ∧ t.upc ≠ 5) ∧
    (∃ t, step { running idx idx 5 with agenda := [.reset] } = .next t ∧ t.upc ≠ 5) :=
  ⟨⟨_, rfl, by decide⟩, ⟨_, rfl, by decide⟩, ⟨_, rfl, by decide⟩, _, rfl, by decide⟩

theorem witness_DoneIsStickyUntilStartOrReset :
    (∃ t, step (running idx idx 95) = .next t ∧ (running idx idx 95).done = false ∧ t.done = true ∧
      seqMoves (running idx idx 95) ∧ (running idx idx 95).busy = true ∧ (running idx idx 95).upc.toNat = 95) ∧
    (∃ t, step { idle idx idx with done := true, agenda := [startCmd] } = .next t ∧ t.done = false) ∧
    (∃ t, step { idle idx idx with done := true, agenda := [.reset] } = .next t ∧ t.done = false) :=
  ⟨⟨_, rfl, rfl, by decide, .inl rfl, rfl, by decide⟩, ⟨_, rfl, by decide⟩, _, rfl, by decide⟩

theorem witness_OnlyHostWriteChangesMessage :
    (∃ t, exec .g1 (idle idx idx) = .next t) ∧
    (∃ t, step { idle idx idx with agenda := [.host (.write 0x10 7)] } = .next t ∧ t.msg ≠ (idle idx idx).msg) ∧
    (∃ t, step { idle idx idx with agenda := [.host (.write 0x1F 7)] } = .next t ∧ t.msg ≠ (idle idx idx).msg) ∧
    ((running idx idx 0).busy = true ∧ (running idx idx 0).upc = 0 ∧ (running idx idx 0).agenda = []) :=
  ⟨⟨_, rfl⟩, ⟨_, rfl, by decide⟩, ⟨_, rfl, by decide⟩, rfl, rfl, rfl⟩

theorem witness_MicroOperationsKeepControl :
    (∃ t, exec (.sched 11 .diagonal) (idle idx idx) = .next t) ∧ (∃ t, exec .g1 (idle idx idx) = .next t) ∧
    (∃ t, exec .g2 (idle idx idx) = .next t) ∧ (∃ t, exec .diag (idle idx idx) = .next t) ∧
    (∃ t, exec .undiag (idle idx idx) = .next t) :=
  ⟨⟨_, rfl⟩, ⟨_, rfl⟩, ⟨_, rfl⟩, ⟨_, rfl⟩, _, rfl⟩

/-- Rows that hold `a`, `b`, `c`, `d` at every position. -/
def columns (a b c d : Word) : Words := #v[a, a, a, a, b, b, b, b, c, c, c, c, d, d, d, d]

theorem witness_G1IsFirstMixingStep :
    ((idle (Vector.replicate 16 0) idx).v = Vector.replicate 16 0 ∧ (idle idx idx).ops.b0 = ⟨0, 0⟩ ∧
      (idle idx idx).ops.b1 = ⟨0, 0⟩) ∧
    (∀ j : Fin 4, (idle (columns 0 4 8 12) idx).rows.at 0 j = 0 ∧ (idle (columns 0 4 8 12) idx).rows.at 1 j = 4 ∧
      (idle (columns 0 4 8 12) idx).rows.at 2 j = 8 ∧ (idle (columns 0 4 8 12) idx).rows.at 3 j = 12 ∧
      operandAt ⟨1, 1⟩ ⟨1, 1⟩ j = 1) := by decide

theorem witness_G2IsSecondMixingStep :
    ((idle (Vector.replicate 16 0) idx).v = Vector.replicate 16 0 ∧ (idle idx idx).ops.b2 = ⟨0, 0⟩ ∧
      (idle idx idx).ops.b3 = ⟨0, 0⟩) ∧
    (∀ j : Fin 4, let r := Rows.ofWords (columns 0x8000000000000000 0x8000000000000000 0 0)
      r.at 0 j = 0x8000000000000000 ∧ r.at 1 j = 0x8000000000000000 ∧ r.at 2 j = 0 ∧ r.at 3 j = 0 ∧
      operandAt ⟨0, 0⟩ ⟨0, 0⟩ j = 0) ∧
    (∀ j : Fin 4, let r := Rows.ofWords (columns 0x5 0x00000C0000000900 0x0000000900000008 0x0000000900000000)
      r.at 0 j = 0x5 ∧ r.at 1 j = 0x00000C0000000900 ∧ r.at 2 j = 0x0000000900000008 ∧ r.at 3 j = 0x0000000900000000 ∧
      operandAt ⟨2, 2⟩ ⟨2, 2⟩ j = 2) := by decide

theorem witness_SchedLoadsPermutedWords : (0 : BitVec 4).toNat ≤ 11 ∧ (11 : BitVec 4).toNat ≤ 11 := by decide

theorem witness_DiagTurnsRows : (idle idx idx).v = idx ∧
    ∀ k j : Fin 4, (idle (columns 1 2 3 4) idx).rows.at k j = (idle (columns 1 2 3 4) idx).rows.at k 0 := by decide

theorem witness_UndiagTurnsRowsBack :
    (idle #v[0, 1, 2, 3, 5, 6, 7, 4, 10, 11, 8, 9, 15, 12, 13, 14] idx).v =
      #v[0, 1, 2, 3, 5, 6, 7, 4, 10, 11, 8, 9, 15, 12, 13, 14] ∧
    ∀ k j : Fin 4, (idle (columns 1 2 3 4) idx).rows.at k j = (idle (columns 1 2 3 4) idx).rows.at k 0 := by decide

theorem witness_InverseLawAndRowOne :
    ((Instr.diag = .diag ∨ Instr.diag = .undiag) ∧ ∃ t, exec .diag (idle idx idx) = .next t) ∧
    ((Instr.undiag = .diag ∨ Instr.undiag = .undiag) ∧ ∃ t, exec .undiag (idle idx idx) = .next t) :=
  ⟨⟨.inl rfl, _, rfl⟩, .inr rfl, _, rfl⟩

/-- For `RotationIsShiftCombine`, `RotationLaws` and `RotationShortcutsAgree`. -/
theorem witness_Rotation_ranges : 0 < 64 ∧ 63 < 64 ∧ (1 ≤ 1 ∧ 1 ≤ 63) ∧ (1 ≤ 63 ∧ 63 ≤ 63) ∧ 0 < 8 ∧ 7 < 8 := by decide

theorem witness_HreadReturnsAndChangesNothing :
    ((idle idx idx).setAgenda [.host (.read 0x21)]).agenda = .host (.read 0x21) :: [] ∧
    0x22 ≤ (0x22 : HostAddr).toNat ∧ 0x22 ≤ (0x3F : HostAddr).toNat := by decide

theorem witness_HwriteWritesItsWord :
    ((idle idx idx).setAgenda [.host (.write 0x0F 7)]).agenda = .host (.write 0x0F 7) :: [] ∧
    (running idx idx 0).busy = true ∧ (idle idx idx).busy = false ∧
    0x21 ≤ (0x21 : HostAddr).toNat ∧ 0x21 ≤ (0x3F : HostAddr).toNat := by decide

theorem witness_WriteThenRead : (idle idx idx).busy = false ∧ (0x00 : HostAddr).toNat < 0x20 ∧
    (0x1F : HostAddr).toNat < 0x20 := by decide

theorem witness_HostAccessWhileBusy : (running idx idx 40).busy = true ∧
    ((running idx idx 40).setAgenda [startCmd]).agenda = .host (.write 0x20 1) :: [] ∧
    ((running idx idx 40).setAgenda [pollCmd]).agenda = .host (.read 0x21) :: [] ∧
    (0x0F : HostAddr) = BitVec.ofNat 6 (15 : Fin 16).val ∧ (0x10 : HostAddr) = BitVec.ofNat 6 (0x10 + (0 : Fin 16).val) := by
  decide

theorem witness_ReservedAddressesAreInert : 0x22 ≤ (0x22 : HostAddr).toNat ∧ 0x22 ≤ (0x3F : HostAddr).toNat := by decide

theorem witness_TransactionsAreIdempotentButStart : (0x1F : HostAddr) ≠ 0x20 ∧ (0x21 : HostAddr) ≠ 0x20 ∧
    ¬((0x20 : HostAddr) = 0x20 ∧ (2 : Word).getLsbD 0 = true) ∧ ¬((0x21 : HostAddr) = 0x20 ∧ (1 : Word).getLsbD 0 = true) ∧
    ((3 : Word).getLsbD 0 = true ∧ { idle idx idx with done := true }.busy = false ∧
      { idle idx idx with done := true }.done = true) := by decide

theorem witness_StartBeginsAnInvocation :
    (((idle idx idx).setAgenda [startCmd]).agenda = .host (.write 0x20 1) :: [] ∧ (1 : Word).getLsbD 0 = true ∧
      ((idle idx idx).setAgenda [startCmd]).busy = false) ∧
    (((running idx idx 95).setAgenda [.host (.write 0x20 3)]).agenda = .host (.write 0x20 3) :: [] ∧
      (3 : Word).getLsbD 0 = true ∧ ((running idx idx 95).setAgenda [.host (.write 0x20 3)]).busy = true) := by decide

theorem witness_StatusAndControlLayout : (2 : Word).getLsbD 0 = false ∧ (1 : Word).getLsbD 0 = (3 : Word).getLsbD 0 ∧
    (0 : Word).getLsbD 0 = (2 : Word).getLsbD 0 ∧ 2 ≤ 2 ∧ 2 ≤ 63 := by decide

theorem witness_ResetForgetsEverything :
    ((running idx idx 40).setAgenda [.reset]).agenda = .reset :: [] ∧
    (running idx idx 40).freeNext = (idle marked nibbles).freeNext := by decide

theorem witness_LastStepAgainstPollOrStart : (running idx idx 95).busy = true ∧ (running idx idx 95).done = false ∧
    (running idx idx 95).upc = 95 := by decide

theorem witness_LawfulReadsShowNoIntermediateState :
    ((HostCmd.read 0x10).lawfulWhileBusy = true ∧ (HostCmd.read 0x3F).lawfulWhileBusy = true) ∧
    (running idx idx 3).msg = (running marked idx 4).msg ∧ (running idx idx 3).busy = (running marked idx 4).busy ∧
    (running idx idx 3).done = (running marked idx 4).done := by decide

/-- For `InvocationComputesCompress` and `RoundBoundariesHoldScalarWords`. -/
theorem witness_InvocationComputesCompress : (running idx idx 0).busy = true ∧ (running idx idx 0).upc = 0 ∧
    (running idx idx 0).agenda = [] ∧ (0 < 96 ∧ 95 < 96) ∧ (0 ≤ 12 ∧ 12 ≤ 12) := by decide

theorem witness_InvocationIgnoresHiddenState :
    (running idx idx 0).busy = true ∧ (running idx idx 0).upc = 0 ∧ (running idx idx 0).agenda = [] ∧
    SameInput (running idx idx 0) { running idx idx 0 with ops := ⟨⟨1, 2⟩, ⟨3, 4⟩, ⟨5, 6⟩, ⟨7, 8⟩⟩, t0 := ⟨9, 9⟩, freeNext := 40 } :=
  ⟨rfl, rfl, rfl, rfl, rfl⟩

/-- Unlawful reads and writes, a second `START` among them, before and between the sequencer's turns. -/
theorem witness_HostCannotDisturbInvocation :
    let p := [startCmd, .host (.write 0x05 0)] ++ List.replicate 94 .sequencer ++ [.host (.read 0x00), .sequencer]
    let s := (running idx idx 0).setAgenda (p ++ .sequencer :: [])
    s.busy = true ∧ s.upc = 0 ∧ (∀ e ∈ p, e.notReset = true) ∧ p.count .sequencer = 95 ∧ s.agenda = p ++ .sequencer :: [] := by
  decide

/-- A wait of one poll and the sequencer's 96 turns. -/
def waiting : List Event := pollCmd :: List.replicate 96 .sequencer

/-- An idle machine, `MSG[i]` = i in it, whose agenda is the protocol with `load` as steps 2 and 3. -/
def protocolStart (load : List Event) : State :=
  (idle idx idx).setAgenda (pollCmd :: (load ++ startCmd :: (waiting ++ pollCmd :: readState)))

/-- Both orders of loading, and the load that leaves the message out because `MSG` holds it. -/
theorem witness_ProtocolReturnsCompress :
    ∀ p ∈ [(loadMsg nibbles ++ loadState marked, nibbles), (loadState marked ++ loadMsg nibbles, nibbles),
        (loadState marked, idx)],
      (protocolStart p.1).busy = false ∧
      (p.1.Perm (loadMsg p.2 ++ loadState marked) ∨ ((protocolStart p.1).m = p.2 ∧ p.1.Perm (loadState marked))) ∧
      (∀ e ∈ waiting, e.waiting = true) ∧ 96 ≤ waiting.count .sequencer ∧
      (protocolStart p.1).agenda = pollCmd :: (p.1 ++ startCmd :: (waiting ++ pollCmd :: readState)) := by
  have hw : (∀ e ∈ waiting, e.waiting = true) ∧ 96 ≤ waiting.count .sequencer :=
    ⟨by unfold waiting; decide, by simp [waiting, pollCmd]⟩
  simp only [List.forall_mem_cons]
  exact ⟨⟨rfl, .inl (.refl _), hw.1, hw.2, rfl⟩, ⟨rfl, .inl List.perm_append_comm, hw.1, hw.2, rfl⟩,
    ⟨rfl, .inr ⟨rfl, .refl _⟩, hw.1, hw.2, rfl⟩, fun _ h => nomatch h⟩

theorem witness_SecondStartCompressesAgain :
    let s := (idle idx idx).setAgenda
      (startCmd :: (List.replicate 96 .sequencer ++ startCmd :: List.replicate 96 .sequencer))
    s.busy = false ∧ s.agenda = startCmd :: (List.replicate 96 .sequencer ++ startCmd :: List.replicate 96 .sequencer) :=
  ⟨rfl, rfl⟩

end Sys2Proof.Tests
end

section
/-! SUPPORT. The test harness (spec/00_scope.md R12): a byte that is not reserved stands for a well-formed
micro-operation, and a list of well-formed micro-operations runs to its end. -/

namespace Sys2Proof

/-- The bytes that are not reserved are those that stand for a micro-operation (spec/30_encoding.md R85). -/
theorem isReserved_eq_false_iff (b : Byte) : isReserved b = false ↔ ∃ i, decode b = .instr i := by
  unfold isReserved
  cases decode b <;> simp

/-- An operation code without operands stands for its own micro-operation or for none. -/
theorem eq_of_plainOp_eq_instr {b : Byte} {i j : Instr} (h : plainOp b i = .instr j) : j = i := by
  unfold plainOp at h
  split at h
  · exact (Decoded.instr.inj h).symm
  · cases h

/-- What a byte decodes to meets the constraint of the opcode map (spec/30_encoding.md R82). -/
theorem wellFormed_of_decode {b : Byte} {i : Instr} (h : decode b = .instr i) : i.wellFormed = true := by
  unfold decode at h
  split at h
  case h_1 =>
    split at h
    · rename_i hr
      cases h
      simpa [Instr.wellFormed] using hr
    · cases h
  case h_2 | h_3 | h_4 | h_5 => rw [eq_of_plainOp_eq_instr h]; rfl
  case h_6 => cases h

namespace Machine

/-- A well-formed micro-operation has a next state in every state (spec/60_exceptions.md R230). -/
theorem exec_next_of_wellFormed {i : Instr} (hi : i.wellFormed = true) (s : State) : ∃ t, exec i s = .next t := by
  cases h : exec i s with
  | next t => exact ⟨t, rfl⟩
  | fault f => cases f
  | refused q =>
    obtain ⟨r, k, rfl, hr, -⟩ := exec_refused h
    have : r.toNat ≤ 11 := by simpa [Instr.wellFormed] using hi
    omega

/-- The first micro-operation of a list, where it has a next state. -/
theorem runOps_cons_of_next {i : Instr} {is : List Instr} {s t : State} (h : exec i s = .next t) :
    runOps (i :: is) s = runOps is t := by
  simp [runOps, h]

/-- A list of well-formed micro-operations runs to its end from every state. -/
theorem runOps_next_of_wellFormed {is : List Instr} (h : ∀ i ∈ is, i.wellFormed = true) (s : State) :
    ∃ t, runOps is s = .next t := by
  induction is generalizing s with
  | nil => exact ⟨s, rfl⟩
  | cons i is ih =>
    obtain ⟨hi, his⟩ := List.forall_mem_cons.mp h
    obtain ⟨u, hu⟩ := exec_next_of_wellFormed hi s
    rw [runOps_cons_of_next hu]
    exact ih his u

/-- A micro-program without a reserved byte decodes to well-formed micro-operations. -/
theorem decodeProgram_of_legal {prog : List Byte} (h : ∀ b ∈ prog, isReserved b = false) :
    ∃ is, decodeProgram prog = .inr is ∧ ∀ i ∈ is, i.wellFormed = true := by
  induction prog with
  | nil => exact ⟨[], rfl, List.forall_mem_nil _⟩
  | cons b bs ih =>
    obtain ⟨hb, hbs⟩ := List.forall_mem_cons.mp h
    obtain ⟨i, hi⟩ := (isReserved_eq_false_iff b).mp hb
    obtain ⟨is, his, hwf⟩ := ih hbs
    exact ⟨i :: is, by simp [decodeProgram, hi, his], List.forall_mem_cons.mpr ⟨wellFormed_of_decode hi, hwf⟩⟩

/-- A micro-program that decodes runs as the micro-operations it decodes to. -/
theorem runMicro_of_decodeProgram {prog : List Byte} {is : List Instr} (h : decodeProgram prog = .inr is) (s : State) :
    runMicro prog s = runOps is s := by
  simp [runMicro, h]

/-- Settles O6: the program decodes to well-formed micro-operations, and those run to the end. -/
theorem legalTestProgramRuns : Obligations.LegalTestProgramRuns := by
  intro prog s h
  obtain ⟨is, his, hwf⟩ := decodeProgram_of_legal h
  rw [runMicro_of_decodeProgram his]
  exact runOps_next_of_wellFormed hwf s

end Machine
end Sys2Proof
end

section
/-! SUPPORT. What every kind of step makes of the control bits, and the invariant of the legal states
(spec/10_state.md R31). -/

namespace Sys2Proof.Machine

/-- What a micro-operation may change: the row, operand and scratch registers, and the model's count of draws. -/
theorem exec_frame {i : Instr} {s t : State} (h : exec i s = .next t) :
    t = { s with rows := t.rows, ops := t.ops, t0 := t.t0, t1 := t.t1, freeNext := t.freeNext } := by
  rcases exec_cases h with ⟨r, k, hr, -, rfl⟩ | ⟨-, rfl⟩ | ⟨-, rfl⟩ | ⟨-, rfl⟩ | ⟨-, rfl⟩ <;> rfl

theorem exec_busy {i : Instr} {s t : State} (h : exec i s = .next t) : t.busy = s.busy :=
  (congrArg State.busy (exec_frame h) :)

theorem exec_done {i : Instr} {s t : State} (h : exec i s = .next t) : t.done = s.done :=
  (congrArg State.done (exec_frame h) :)

theorem exec_msg {i : Instr} {s t : State} (h : exec i s = .next t) : t.msg = s.msg :=
  (congrArg State.msg (exec_frame h) :)

theorem exec_agenda {i : Instr} {s t : State} (h : exec i s = .next t) : t.agenda = s.agenda :=
  (congrArg State.agenda (exec_frame h) :)

/-- The sequencer step on the control bits: completion at the last ROM entry, one address further anywhere else
(spec/44_round_driver.md R182). -/
theorem seqStep_control {s t : State} (h : seqStep s = .next t) :
    (s.upc = 95 ∧ t.upc = 0 ∧ t.busy = false ∧ t.done = true) ∨
    (s.upc ≠ 95 ∧ t.upc = s.upc + 1 ∧ t.busy = s.busy ∧ t.done = s.done) := by
  obtain ⟨b, i, u, -, -, hu, rfl⟩ := seqStep_next h
  by_cases hl : s.upc = 95
  · rw [hl, advance_last]
    exact .inl ⟨rfl, rfl, rfl, rfl⟩
  · rw [advance_inner u hl]
    exact .inr ⟨hl, rfl, (exec_busy hu :), (exec_done hu :)⟩

/-- A host write on the control bits: it leaves them, or it is an accepted `START` (spec/45_host_commands.md R211). -/
theorem hwrite_control (s : State) (a : HostAddr) (d : Word) :
    ((hwrite s a d).upc = s.upc ∧ (hwrite s a d).busy = s.busy ∧ (hwrite s a d).done = s.done) ∨
    (s.busy = false ∧ a = 0x20 ∧ d.getLsbD 0 = true ∧
      (hwrite s a d).upc = 0 ∧ (hwrite s a d).busy = true ∧ (hwrite s a d).done = false) := by
  rcases hwrite_cases s a d with h | ⟨-, i, -, h⟩ | ⟨-, i, -, h⟩ | ⟨hb, ha, hd, h⟩ <;> rw [h]
  · exact .inl ⟨rfl, rfl, rfl⟩
  · exact .inl ⟨rfl, rfl, rfl⟩
  · exact .inl ⟨rfl, rfl, rfl⟩
  · exact .inr ⟨hb, ha, hd, rfl, rfl, rfl⟩

/-- Being legal is a matter of the control bits alone. -/
theorem LegalState.congr {s t : State} (hs : LegalState s) (hu : t.upc = s.upc) (hb : t.busy = s.busy)
    (hd : t.done = s.done) : LegalState t := by
  unfold LegalState
  rw [hu, hb, hd]
  exact hs

/-- `UPC` = 0 and one of `BUSY`, `DONE` clear: what completion, `START` and reset leave. -/
theorem legalState_of_upc_zero {s : State} (hu : s.upc = 0) (h : ¬(s.busy = true ∧ s.done = true)) : LegalState s :=
  ⟨fun _ => hu, by rw [hu]; decide, h⟩

/-- The sequencer's own step keeps the invariant: inside the ROM `UPC` stays at most 95, at its end `BUSY` falls. -/
theorem LegalState.of_seqStep {s t : State} (hs : LegalState s) (hb : s.busy = true) (h : seqStep s = .next t) :
    LegalState t := by
  rcases seqStep_control h with ⟨-, hu, hb', -⟩ | ⟨hl, hu, hb', hd'⟩
  · exact legalState_of_upc_zero hu (by simp [hb'])
  · obtain ⟨-, hmax, hbd⟩ := hs
    refine ⟨fun hf => ?_, ?_, ?_⟩
    · rw [hb', hb] at hf
      cases hf
    · rw [hu]
      bv_omega
    · rwa [hb', hd']

/-- A host write keeps the invariant. -/
theorem LegalState.of_hwrite {s : State} (hs : LegalState s) (a : HostAddr) (d : Word) : LegalState (hwrite s a d) := by
  rcases hwrite_control s a d with ⟨hu, hb, hd⟩ | ⟨-, -, -, hu, -, hd⟩
  · exact hs.congr hu hb hd
  · exact legalState_of_upc_zero hu (by simp [hd])

/-- Settles O10: reset leaves `UPC`, `BUSY` and `DONE` clear. -/
theorem resetIsLegal : Obligations.ResetIsLegal :=
  legalState_of_upc_zero State.reset_upc (by simp)

/-- Settles O11: by the five kinds of step; only the sequencer's own and an accepted `START` move the control bits to
something other than the reset values. -/
theorem stepKeepsLegalState : Obligations.StepKeepsLegalState := by
  intro s t hs h
  have hs' : ∀ l : List Event, LegalState (s.setAgenda l) := fun _ => hs.congr rfl rfl rfl
  rcases step_cases h with ⟨-, -, rfl⟩ | ⟨-, hb, hseq⟩ | ⟨a, rest, -, rfl⟩ | ⟨a, d, rest, -, rfl⟩ | ⟨rest, -, rfl⟩
  · exact hs' _
  · exact (hs' s.agenda.tail).of_seqStep hb hseq
  · exact (hs' rest).congr rfl rfl rfl
  · exact (hs' rest).of_hwrite a d
  · exact legalState_of_upc_zero rfl (by simp)

end Sys2Proof.Machine
end

section
/-! SUPPORT. The lanes behind the names `V[i]` and `MSG[i]` (spec/10_state.md R22 to R24), and what the host window
returns at each address, before and after a write (spec/20_memory.md R53, R54). -/

namespace Sys2Proof.Machine

/-! ### Words and lanes -/

/-- A word read after a write of a word. -/
theorem Rows.word_setWord (r : Rows) (i j : Fin 16) (w : Word) :
    (r.setWord i w).word j = if j = i then w else r.word j := by
  simp [Rows.word, Rows.setWord, Vector.getElem_set, Fin.ext_iff, eq_comm]

/-- A message word read after a write of a message word. -/
theorem MsgRegs.word_setWord (m : MsgRegs) (i j : Fin 16) (w : Word) :
    (m.setWord i w).word j = if j = i then w else m.word j := by
  simp [MsgRegs.word, MsgRegs.setWord, Vector.getElem_set, Fin.ext_iff, eq_comm]

/-- `V[i]` is lane `i mod 2` of a half of row `(i div 4) + 1` (spec/10_state.md R22). -/
theorem Rows.word_eq_laneOf (r : Rows) (i : Fin 16) :
    r.word i = laneOf (r.reg ⟨i.val / 4, by omega⟩ (decide (2 ≤ i.val % 4))) i.val := by
  fin_cases i <;> rfl

/-- `MSG[i]` is lane `i mod 2` of `MW(i div 2)` (spec/10_state.md R24). -/
theorem MsgRegs.word_eq_laneOf (m : MsgRegs) (i : Fin 16) :
    m.word i = laneOf (m.reg ⟨i.val / 2, by omega⟩) i.val := by
  fin_cases i <;> rfl

/-- Settles O32: the table of R22 and R24 lane by lane, and packing as the inverse of unpacking. -/
theorem laneToWordMap : Obligations.LaneToWordMap :=
  ⟨Rows.word_eq_laneOf, MsgRegs.word_eq_laneOf, rows_ofWords_words, rows_words_ofWords, msg_ofWords_words,
    msg_words_ofWords, fun _ _ _ => rfl, Rows.word_setWord, MsgRegs.word_setWord⟩

/-! ### Reads of the window -/

/-- A read of `V[i]` returns its lane. -/
@[simp] theorem hread_v (s : State) (i : Fin 16) : hread s (BitVec.ofNat 6 i.val) = s.rows.word i := by
  fin_cases i <;> rfl

/-- A read of `MSG[i]` returns its lane. -/
@[simp] theorem hread_msg (s : State) (i : Fin 16) : hread s (BitVec.ofNat 6 (0x10 + i.val)) = s.msg.word i := by
  fin_cases i <;> rfl

/-- `CTRL` reads 0 (spec/10_state.md R29). -/
@[simp] theorem hread_ctrl (s : State) : hread s Config.ctrlAddr = 0 := rfl

/-! ### A read after a write -/

/-- The first sixteen addresses are those of `V`. -/
theorem le_vLast_iff (a : HostAddr) : a ≤ Config.vLast ↔ ∃ i : Fin 16, a = BitVec.ofNat 6 i.val := by
  revert a; decide

/-- The first thirty-two addresses are those of `V` and `MSG`. -/
theorem le_msgLast_iff (a : HostAddr) :
    a ≤ Config.msgLast ↔ a ≤ Config.vLast ∨ ∃ i : Fin 16, a = BitVec.ofNat 6 (0x10 + i.val) := by
  revert a; decide

/-- Two `V` addresses are equal as their indices are. -/
theorem vAddr_inj (i j : Fin 16) : BitVec.ofNat 6 j.val = BitVec.ofNat 6 i.val ↔ j = i := by
  revert i j; decide

/-- Two `MSG` addresses are equal as their indices are. -/
theorem msgAddr_inj (i j : Fin 16) : BitVec.ofNat 6 (0x10 + j.val) = BitVec.ofNat 6 (0x10 + i.val) ↔ j = i := by
  revert i j; decide

/-- The row registers show at the `V` addresses only. -/
theorem hread_setRows_of_ne (s : State) (r : Rows) {b : HostAddr} (h : ∀ j : Fin 16, b ≠ BitVec.ofNat 6 j.val) :
    hread (s.setRows r) b = hread s b := by
  have hv : ¬ b ≤ Config.vLast := fun hle => ((le_vLast_iff b).mp hle).elim h
  simp [hread, hv, statusWord]

/-- The message registers show at the `MSG` addresses only. -/
theorem hread_setMsg_of_ne (s : State) (m : MsgRegs) {b : HostAddr}
    (h : ∀ j : Fin 16, b ≠ BitVec.ofNat 6 (0x10 + j.val)) : hread (s.setMsg m) b = hread s b := by
  have hm : ¬ b ≤ Config.vLast → ¬ b ≤ Config.msgLast := fun hv hle =>
    ((le_msgLast_iff b).mp hle).elim hv fun he => he.elim h
  by_cases hv : b ≤ Config.vLast
  · simp [hread, hv]
  · simp [hread, hv, hm hv, statusWord]

/-- A write of `V[i]` as the window shows it (spec/10_state.md R23). -/
theorem hread_hwrite_v {s : State} (hs : s.busy = false) (i : Fin 16) (d : Word) (b : HostAddr) :
    hread (hwrite s (BitVec.ofNat 6 i.val) d) b = if b = BitVec.ofNat 6 i.val then d else hread s b := by
  rw [hwrite_v hs]
  by_cases hb : ∃ j : Fin 16, b = BitVec.ofNat 6 j.val
  · obtain ⟨j, rfl⟩ := hb
    simp only [hread_v, State.setRows_rows, Rows.word_setWord, vAddr_inj]
  · have hne : ∀ j : Fin 16, b ≠ BitVec.ofNat 6 j.val := not_exists.mp hb
    rw [hread_setRows_of_ne s _ hne, if_neg (hne i)]

/-- A write of `MSG[i]` as the window shows it (spec/10_state.md R24). -/
theorem hread_hwrite_msg {s : State} (hs : s.busy = false) (i : Fin 16) (d : Word) (b : HostAddr) :
    hread (hwrite s (BitVec.ofNat 6 (0x10 + i.val)) d) b =
      if b = BitVec.ofNat 6 (0x10 + i.val) then d else hread s b := by
  rw [hwrite_msg hs]
  by_cases hb : ∃ j : Fin 16, b = BitVec.ofNat 6 (0x10 + j.val)
  · obtain ⟨j, rfl⟩ := hb
    simp only [hread_msg, State.setMsg_msg, MsgRegs.word_setWord, msgAddr_inj]
  · have hne : ∀ j : Fin 16, b ≠ BitVec.ofNat 6 (0x10 + j.val) := not_exists.mp hb
    rw [hread_setMsg_of_ne s _ hne, if_neg (hne i)]

/-- Settles O35: the written address is one of `V` or of `MSG`. -/
theorem writeThenRead : Obligations.WriteThenRead := by
  intro s a b d hs ha
  have hle : a ≤ Config.msgLast := Nat.le_of_lt_succ ha
  rcases (le_msgLast_iff a).mp hle with hv | ⟨i, rfl⟩
  · obtain ⟨i, rfl⟩ := (le_vLast_iff a).mp hv
    exact hread_hwrite_v hs i d b
  · exact hread_hwrite_msg hs i d b

/-! ### `STATUS` and `CTRL` -/

/-- Bit 0 of `STATUS` is `BUSY`. -/
theorem statusWord_getLsbD_zero (s : State) : (statusWord s).getLsbD 0 = s.busy := by
  unfold statusWord
  cases s.busy <;> cases s.done <;> rfl

/-- Bit 1 of `STATUS` is `DONE`. -/
theorem statusWord_getLsbD_one (s : State) : (statusWord s).getLsbD 1 = s.done := by
  unfold statusWord
  cases s.busy <;> cases s.done <;> rfl

/-- Bits 63:2 of `STATUS` are 0. -/
theorem statusWord_getLsbD_of_two_le (s : State) {i : Nat} (h : 2 ≤ i) : (statusWord s).getLsbD i = false := by
  rw [statusWord, BitVec.getLsbD_setWidth, BitVec.getLsbD_of_ge _ i h, Bool.and_false]

/-- `STATUS` reads 0 when neither bit is set. -/
theorem statusWord_eq_zero {s : State} (hb : s.busy = false) (hd : s.done = false) : statusWord s = 0 := by
  rw [statusWord, hb, hd]
  rfl

/-- A write of `CTRL` is decided by bit 0 of its data (spec/10_state.md R29). -/
theorem hwrite_ctrl (s : State) (d : Word) :
    hwrite s Config.ctrlAddr d = if s.busy = false ∧ d.getLsbD 0 = true then start s else s := by
  cases hb : s.busy with
  | true => rw [hwrite_busy hb, if_neg (by simp)]
  | false =>
    have : hwrite s Config.ctrlAddr d = if d.getLsbD 0 then start s else s := by
      rw [hwrite, hb]
      rfl
    simpa using this

/-- A write of `STATUS` is ignored (spec/20_memory.md R59). -/
theorem hwrite_status (s : State) (d : Word) : hwrite s Config.statusAddr d = s := by
  rcases hwrite_cases s Config.statusAddr d with h | ⟨-, i, ha, -⟩ | ⟨-, i, ha, -⟩ | ⟨-, ha, -⟩
  · exact h
  · have : 0x21 = i.val := ha
    omega
  · have : 0x21 = 16 + i.val := ha
    omega
  · exact absurd ha (by decide)

/-- A write hands the host no value. -/
theorem hwrite_replies (s : State) (a : HostAddr) (d : Word) : (hwrite s a d).replies = s.replies := by
  rcases hwrite_cases s a d with h | ⟨-, i, -, h⟩ | ⟨-, i, -, h⟩ | ⟨-, -, -, h⟩ <;> rw [h] <;> rfl

/-- Settles O40: the three lemmas on the bits of `STATUS`, and the writes of `CTRL` and `STATUS`. -/
theorem statusAndControlLayout : Obligations.StatusAndControlLayout := by
  refine ⟨fun s => ⟨statusWord_getLsbD_zero s, statusWord_getLsbD_one s, fun _ => statusWord_getLsbD_of_two_le s⟩,
    hread_ctrl, fun s d hd => ?_, fun s d d' hd => ?_, fun s a d => ⟨hwrite_status s d, hwrite_replies s a d⟩⟩
  · exact (hwrite_ctrl s d).trans (if_neg fun ⟨_, h⟩ => Bool.false_ne_true (hd.symm.trans h))
  · exact (hwrite_ctrl s d).trans (by rw [hd]; exact (hwrite_ctrl s d').symm)

/-! ### Reset -/

/-- What reset leaves is decided by the draws, the agenda and the host's record. -/
theorem applyReset_of_freeNext_eq {s u : State} (h : s.freeNext = u.freeNext) :
    s.applyReset = { u.applyReset with agenda := s.agenda, replies := s.replies } := by
  rw [State.applyReset, State.applyReset, h]

/-- Settles O41: a reset step is `applyReset`, whose control bits are 0, and an idle machine stays as it is. -/
theorem resetForgetsEverything : Obligations.ResetForgetsEverything := by
  refine ⟨fun s rest ha => ?_, fun s u => applyReset_of_freeNext_eq, State.reset_upc, State.reset_busy,
    State.reset_done, statusWord_eq_zero State.reset_busy State.reset_done⟩
  refine ⟨(s.setAgenda rest).applyReset, step_of_event ha, rfl, rfl, rfl, statusWord_eq_zero rfl rfl, rfl, rfl, ?_⟩
  intro hr
  rw [step_of_empty (by simpa using hr), seqTurn_idle rfl]

end Sys2Proof.Machine
end

section
/-! SUPPORT. An invocation as a run of the ROM's micro-operations: `k` steps of the machine from boundary `n` are the
micro-operations `n` to `n + k - 1` of `COMPRESS` (spec/44_round_driver.md R181, R182). -/

namespace Sys2Proof.Machine

/-! ### Lists of micro-operations -/

/-- A list that runs to its end ran its first micro-operation and then the others. -/
theorem runOps_cons_next {i : Instr} {is : List Instr} {s u : State} (h : runOps (i :: is) s = .next u) :
    ∃ t, exec i s = .next t ∧ runOps is t = .next u := by
  cases ht : exec i s with
  | next t => exact ⟨t, rfl, by rwa [runOps_cons_of_next ht] at h⟩
  | fault f => cases f
  | refused r => simp [runOps, ht] at h

/-- Two lists, one after the other. -/
theorem runOps_append {is js : List Instr} {s t : State} (h : runOps is s = .next t) :
    runOps (is ++ js) s = runOps js t := by
  induction is generalizing s with
  | nil => cases h; rfl
  | cons i is ih =>
    obtain ⟨v, hv, his⟩ := runOps_cons_next h
    rw [List.cons_append, runOps_cons_of_next hv, ih his]

/-- No list of micro-operations changes a message register. -/
theorem runOps_msg {is : List Instr} {s t : State} (h : runOps is s = .next t) : t.msg = s.msg := by
  induction is generalizing s with
  | nil => cases h; rfl
  | cons i is ih =>
    obtain ⟨v, hv, his⟩ := runOps_cons_next h
    rw [ih his, exec_msg hv]

/-- A micro-operation neither reads nor writes the control bits. -/
theorem exec_setControl {i : Instr} {s t : State} (h : exec i s = .next t) (u : BitVec 7) (p q : Bool) :
    exec i (s.setControl u p q) = .next (t.setControl u p q) := by
  rcases exec_cases h with ⟨r, k, hr, rfl, rfl⟩ | ⟨rfl, rfl⟩ | ⟨rfl, rfl⟩ | ⟨rfl, rfl⟩ | ⟨rfl, rfl⟩
  · exact dif_pos hr
  all_goals rfl

/-! ### The ROM -/

theorem compressOps_length : compressOps.length = 96 := by decide

/-- Every micro-operation of `COMPRESS` is well formed. -/
theorem wellFormed_of_mem_compressOps : ∀ i ∈ compressOps, i.wellFormed = true := by decide

/-- The ROM holds the micro-operations of `COMPRESS` (spec/44_round_driver.md R181). -/
theorem rom_map_decode : rom.map decode = compressOps.map Decoded.instr := by decide

/-- What the sequencer fetches at address `n`. -/
theorem fetch_decode {n : Nat} (hn : n < 96) :
    ∃ b, fetch (BitVec.ofNat 7 n) = some b ∧
      decode b = .instr (compressOps[n]'(by rw [compressOps_length]; exact hn)) := by
  have hc : n < compressOps.length := by rw [compressOps_length]; exact hn
  have hr : n < rom.length := hn
  refine ⟨rom[n], ?_, ?_⟩
  · rw [fetch, BitVec.toNat_ofNat, Nat.mod_eq_of_lt (by omega), List.getElem?_eq_getElem hr]
  · simpa [hr, hc] using congrArg (·[n]?) rom_map_decode

/-! ### The boundaries of an invocation -/

/-- `s` with the control bits of boundary `n` of an invocation, that is after its first `n` micro-operations: running at
address `n`, or completed when all 96 are done. `d` is what `DONE` held before. -/
def State.atBoundary (s : State) (n : Nat) (d : Bool) : State :=
  if n = 96 then s.setControl 0 false true else s.setControl (BitVec.ofNat 7 n) true d

theorem State.atBoundary_of_lt (s : State) {n : Nat} (hn : n < 96) (d : Bool) :
    s.atBoundary n d = s.setControl (BitVec.ofNat 7 n) true d := if_neg hn.ne

@[simp] theorem State.atBoundary_rows (s : State) (n : Nat) (d : Bool) : (s.atBoundary n d).rows = s.rows := by
  unfold State.atBoundary; split <;> rfl

@[simp] theorem State.atBoundary_msg (s : State) (n : Nat) (d : Bool) : (s.atBoundary n d).msg = s.msg := by
  unfold State.atBoundary; split <;> rfl

/-- A machine about to run an invocation is at its boundary 0. -/
theorem State.atBoundary_zero {s : State} (hb : s.busy = true) (hu : s.upc = 0) : s.atBoundary 0 s.done = s := by
  cases s
  cases hb
  cases hu
  rfl

/-- The sequencer's advance leads from boundary `n` to the next. -/
theorem advance_atBoundary (s : State) {n : Nat} (hn : n < 96) (d : Bool) :
    advance (BitVec.ofNat 7 n) (s.atBoundary n d) = s.atBoundary (n + 1) d := by
  rw [s.atBoundary_of_lt hn]
  by_cases hl : n = 95
  · subst hl
    exact advance_last _
  · have hne : BitVec.ofNat 7 n ≠ 95 := fun he => hl (by
      simpa [Nat.mod_eq_of_lt (show n < 128 by omega)] using congrArg BitVec.toNat he)
    rw [advance_inner _ hne, s.atBoundary_of_lt (by omega), BitVec.ofNat_add]
    rfl

/-- A step from boundary `n` runs micro-operation `n` and leads to the next boundary. -/
theorem step_atBoundary {s t : State} {n : Nat} (hn : n < 96) (ha : s.agenda = []) (d : Bool)
    (h : exec (compressOps[n]'(by rw [compressOps_length]; exact hn)) s = .next t) :
    step (s.atBoundary n d) = .next (t.atBoundary (n + 1) d) := by
  obtain ⟨b, hb, hi⟩ := fetch_decode hn
  have hag : (s.setControl (BitVec.ofNat 7 n) true d).agenda = [] := ha
  rw [← advance_atBoundary t hn, s.atBoundary_of_lt hn, t.atBoundary_of_lt hn, step_of_empty hag, seqTurn_busy rfl]
  exact seqStep_of hb hi (exec_setControl h _ _ _)

/-- `k` steps from boundary `n` run the `k` micro-operations from there on. -/
theorem runSteps_atBoundary {k n : Nat} {s u : State} (hn : n + k ≤ 96) (ha : s.agenda = []) (d : Bool)
    (h : runOps ((compressOps.drop n).take k) s = .next u) :
    runSteps k (s.atBoundary n d) = .next (u.atBoundary (n + k) d) := by
  induction k generalizing n s with
  | zero => cases h; rfl
  | succ k ih =>
    have hlt : n < 96 := by omega
    rw [List.drop_eq_getElem_cons (by rw [compressOps_length]; exact hlt), List.take_succ_cons] at h
    obtain ⟨t, ht, hrest⟩ := runOps_cons_next h
    rw [runSteps_succ (step_atBoundary hlt ha d ht), ← Nat.add_assoc, Nat.add_right_comm]
    exact ih (by omega) ((exec_agenda ht).trans ha) hrest

/-- The first `k` steps of an invocation run the first `k` micro-operations of `COMPRESS`. -/
theorem runSteps_of_runOps {k : Nat} {s u : State} (hk : k ≤ 96) (hb : s.busy = true) (hu : s.upc = 0)
    (ha : s.agenda = []) (h : runOps (compressOps.take k) s = .next u) :
    runSteps k s = .next (u.atBoundary k s.done) := by
  simpa [State.atBoundary_zero hb hu] using
    runSteps_atBoundary (n := 0) (by omega) ha s.done h

/-! ### The message registers -/

/-- A sequencer step leaves the message registers. -/
theorem seqStep_msg {s t : State} (h : seqStep s = .next t) : t.msg = s.msg := by
  obtain ⟨b, i, u, -, -, hu, rfl⟩ := seqStep_next h
  rw [advance_msg, exec_msg hu]

/-- The writes that change a message register. -/
theorem hwrite_msg_ne {s : State} {a : HostAddr} {d : Word} (h : (hwrite s a d).msg ≠ s.msg) :
    s.busy = false ∧ 0x10 ≤ a.toNat ∧ a.toNat ≤ 0x1F := by
  rcases hwrite_cases s a d with hw | ⟨-, i, -, hw⟩ | ⟨hb, i, hi, -⟩ | ⟨-, -, -, hw⟩
  · exact absurd (congrArg State.msg hw) h
  · exact absurd (congrArg State.msg hw) h
  · exact ⟨hb, by omega, by omega⟩
  · exact absurd (congrArg State.msg hw) h

/-- Settles O16: `exec_msg` for the micro-operations; by the five kinds of step for the machine; and an invocation is
a run of micro-operations. -/
theorem onlyHostWriteChangesMessage : Obligations.OnlyHostWriteChangesMessage := by
  refine ⟨fun _ _ _ => exec_msg, fun s t h hne => ?_, fun s hb hu ha => ?_⟩
  · rcases step_cases h with ⟨-, -, rfl⟩ | ⟨-, -, hseq⟩ | ⟨a, rest, -, rfl⟩ | ⟨a, d, rest, hag, rfl⟩ | ⟨rest, hag, -⟩
    · exact absurd rfl hne
    · exact absurd (seqStep_msg hseq) hne
    · exact absurd rfl hne
    · exact .inl ⟨a, d, rest, hag, hwrite_msg_ne (s := s.setAgenda rest) hne⟩
    · exact .inr ⟨rest, hag⟩
  · obtain ⟨u, hrun⟩ := runOps_next_of_wellFormed wellFormed_of_mem_compressOps s
    have hfirst : runOps (compressOps.take 96) s = .next u := by rwa [List.take_of_length_le compressOps_length.le]
    exact ⟨u.atBoundary 96 s.done, runSteps_of_runOps le_rfl hb hu ha hfirst, rfl,
      (u.atBoundary_msg ..).trans (runOps_msg hrun)⟩

end Sys2Proof.Machine
end

section
/-! SUPPORT. The mixing steps and the reorderings by position (spec/41_mixing_g.md R124, spec/43_row_reorder.md R160),
the scalar function `G` as the same computation on four indices, and with both a round of the machine as a round of the
scalar program (spec/44_round_driver.md R186). -/

namespace Sys2Proof.Machine

/-! ### One position -/

/-- `scalarStep` on the four words of a position, numbered by row. -/
def quadStep (p q : RotAmount) (x : Word) (w : Fin 4 → Word) : Fin 4 → Word :=
  let z := scalarStep p q (w 0) (w 1) (w 2) (w 3) x
  ![z.1, z.2.1, z.2.2.1, z.2.2.2]

/-- Both mixing steps on the four words of a position: `G` without the indices. -/
def quadMix (x y : Word) (w : Fin 4 → Word) : Fin 4 → Word :=
  quadStep .by16 .by63 y (quadStep .by32 .by24 x w)

/-- The row registers after `G1` and `G2` with the operands `b`. -/
def mixRows (b : Operands) (r : Rows) : Rows :=
  gstep .by16 .by63 b.b2 b.b3 (gstep .by32 .by24 b.b0 b.b1 r)

/-- A mixing step works on each position by itself (spec/41_mixing_g.md R124). -/
theorem gstep_at (p q : RotAmount) (x0 x1 : VReg) (r : Rows) (k j : Fin 4) :
    (gstep p q x0 x1 r).at k j = quadStep p q (operandAt x0 x1 j) (fun i => r.at i j) k := by
  fin_cases j <;> fin_cases k <;> rfl

/-- `G1` and `G2` work on each position by itself. -/
theorem mixRows_at (b : Operands) (r : Rows) (k j : Fin 4) :
    (mixRows b r).at k j = quadMix (operandAt b.b0 b.b1 j) (operandAt b.b2 b.b3 j) (fun i => r.at i j) k := by
  simp only [mixRows, quadMix, gstep_at]

/-- `DIAG` turns row `k` + 1 by `k` positions (spec/43_row_reorder.md R160). -/
theorem diagRows_at (r : Rows) (k j : Fin 4) : (diagRows r).at k j = r.at k (j + k) := by
  fin_cases k <;> fin_cases j <;> rfl

/-- `UNDIAG` turns row `k` + 1 back by `k` positions (spec/43_row_reorder.md R162). -/
theorem undiagRows_at (r : Rows) (k j : Fin 4) : (undiagRows r).at k j = r.at k (j - k) := by
  fin_cases k <;> fin_cases j <;> rfl

/-- Every word of the working state stands at a position of a row. -/
theorem exists_posIndex (i : Fin 16) : ∃ k j, i = posIndex k j := by
  revert i; decide

/-- Two working states with the same word at every position are equal. -/
theorem words_ext_at {v w : Words} (h : ∀ k j : Fin 4, v[posIndex k j] = w[posIndex k j]) : v = w := by
  have hall : ∀ i : Fin 16, v[i] = w[i] := fun i => by
    obtain ⟨k, j, rfl⟩ := exists_posIndex i
    exact h k j
  exact Vector.ext fun i hi => hall ⟨i, hi⟩

/-! ### The scalar function `G` on four indices -/

/-- Half of `G`, four of its eight lines. -/
def scalarHalf (p q : RotAmount) (a b c d : Fin 16) (x : Word) (v : Words) : Words :=
  let v := v.set a (v[a] + v[b] + x)
  let v := v.set d (rotr64 (v[d] ^^^ v[a]) p)
  let v := v.set c (v[c] + v[d])
  v.set b (rotr64 (v[b] ^^^ v[c]) q)

/-- `G` is its two halves. -/
theorem scalarG_eq_halves (a b c d : Fin 16) (x y : Word) (v : Words) :
    scalarG a b c d x y v = scalarHalf .by16 .by63 a b c d y (scalarHalf .by32 .by24 a b c d x v) := rfl

/-- Half of `G` gives its four words the values of a mixing step. -/
theorem scalarHalf_getElem (a b : RotAmount) {p : Fin 4 → Fin 16} (hp : p.Injective) (x : Word) (v : Words)
    (k : Fin 4) :
    (scalarHalf a b (p 0) (p 1) (p 2) (p 3) x v)[p k] = quadStep a b x (fun i => v[p i]) k := by
  fin_cases k <;>
    simp [scalarHalf, quadStep, scalarStep, Fin.val_inj, hp.eq_iff]

/-- Half of `G` leaves the other words. -/
theorem scalarHalf_getElem_of_ne (a b : RotAmount) {p : Fin 4 → Fin 16} {i : Fin 16} (hi : ∀ k, p k ≠ i) (x : Word)
    (v : Words) : (scalarHalf a b (p 0) (p 1) (p 2) (p 3) x v)[i] = v[i] := by
  simp [scalarHalf, Vector.getElem_set, Fin.val_inj, hi]

/-- `G` gives its four words the values of both mixing steps. -/
theorem scalarG_getElem {p : Fin 4 → Fin 16} (hp : p.Injective) (x y : Word) (v : Words) (k : Fin 4) :
    (scalarG (p 0) (p 1) (p 2) (p 3) x y v)[p k] = quadMix x y (fun i => v[p i]) k := by
  simp only [scalarG_eq_halves, quadMix, scalarHalf_getElem _ _ hp]

/-- `G` leaves the other words. -/
theorem scalarG_getElem_of_ne {p : Fin 4 → Fin 16} {i : Fin 16} (hi : ∀ k, p k ≠ i) (x y : Word) (v : Words) :
    (scalarG (p 0) (p 1) (p 2) (p 3) x y v)[i] = v[i] := by
  simp only [scalarG_eq_halves, scalarHalf_getElem_of_ne _ _ hi]

/-! ### Four calls of `G` on disjoint indices -/

/-- The calls of `G` that `l` numbers, in its order: call `j` works on the indices `p 0 j` to `p 3 j`, with the message
words `x j` and `y j`. -/
def scalarCalls (p : Fin 4 → Fin 4 → Fin 16) (x y : Fin 4 → Word) (l : List (Fin 4)) (v : Words) : Words :=
  l.foldl (fun v j => scalarG (p 0 j) (p 1 j) (p 2 j) (p 3 j) (x j) (y j) v) v

/-- Calls on other indices leave a word. -/
theorem scalarCalls_getElem_of_not_mem {p : Fin 4 → Fin 4 → Fin 16} (hp : Function.Injective2 p) (x y : Fin 4 → Word)
    {l : List (Fin 4)} {j : Fin 4} (hj : j ∉ l) (v : Words) (k : Fin 4) :
    (scalarCalls p x y l v)[p k j] = v[p k j] := by
  induction l generalizing v with
  | nil => rfl
  | cons i l ih =>
    obtain ⟨hi, hl⟩ := List.ne_and_not_mem_of_not_mem_cons hj
    have hne : ∀ m, p m i ≠ p k j := fun m he => hi (hp he).2.symm
    exact (ih hl _).trans (scalarG_getElem_of_ne (p := (p · i)) hne ..)

/-- Calls on disjoint indices mix each their own four words. -/
theorem scalarCalls_getElem {p : Fin 4 → Fin 4 → Fin 16} (hp : Function.Injective2 p) (x y : Fin 4 → Word)
    {l : List (Fin 4)} (hl : l.Nodup) {j : Fin 4} (hj : j ∈ l) (v : Words) (k : Fin 4) :
    (scalarCalls p x y l v)[p k j] = quadMix (x j) (y j) (fun i => v[p i j]) k := by
  induction l generalizing v with
  | nil => cases hj
  | cons i l ih =>
    obtain ⟨hil, hl⟩ := List.nodup_cons.mp hl
    by_cases hji : j = i
    · subst hji
      exact (scalarCalls_getElem_of_not_mem hp x y hil _ k).trans
        (scalarG_getElem (p := (p · j)) (fun _ _ he => (hp he).1) ..)
    · have hne : ∀ m n, p m i ≠ p n j := fun m n he => hji (hp he).2.symm
      refine (ih hl (List.mem_of_ne_of_mem hji hj) _).trans ?_
      simp only [fun n => scalarG_getElem_of_ne (p := (p · i)) (fun m => hne m n)]

/-! ### The two phases of a round -/

/-- The positions of the four rows are sixteen different indices, so the columns are disjoint. -/
theorem posIndex_injective2 : Function.Injective2 posIndex := by
  unfold Function.Injective2; decide

/-- The index that diagonal `j` has in row `k` + 1 (spec/43_row_reorder.md R167). -/
def diagIndex (k j : Fin 4) : Fin 16 := posIndex k (j + k)

/-- The diagonals are disjoint. -/
theorem diagIndex_injective2 : Function.Injective2 diagIndex := by
  unfold Function.Injective2; decide

/-- The mixing steps on the rows are four calls of `G` on the columns. -/
theorem mixRows_words (b : Operands) (r : Rows) :
    (mixRows b r).words =
      scalarCalls posIndex (operandAt b.b0 b.b1) (operandAt b.b2 b.b3) (List.finRange 4) r.words :=
  words_ext_at fun k j =>
    (mixRows_at b r k j).trans
      (scalarCalls_getElem posIndex_injective2 _ _ (List.nodup_finRange 4) (List.mem_finRange j) _ k).symm

/-- The mixing steps between `DIAG` and `UNDIAG` are four calls of `G` on the diagonals. -/
theorem undiagRows_mixRows_diagRows_words (b : Operands) (r : Rows) :
    (undiagRows (mixRows b (diagRows r))).words =
      scalarCalls diagIndex (operandAt b.b0 b.b1) (operandAt b.b2 b.b3) (List.finRange 4) r.words := by
  refine words_ext_at fun k j => ?_
  have hj : posIndex k j = diagIndex k (j - k) := by rw [diagIndex, sub_add_cancel]
  have hcall := scalarCalls_getElem diagIndex_injective2 (operandAt b.b0 b.b1) (operandAt b.b2 b.b3)
    (List.nodup_finRange 4) (List.mem_finRange (j - k)) r.words k
  calc (undiagRows (mixRows b (diagRows r))).at k j
      = (mixRows b (diagRows r)).at k (j - k) := undiagRows_at _ k j
    _ = quadMix (operandAt b.b0 b.b1 (j - k)) (operandAt b.b2 b.b3 (j - k))
          (fun i => r.at i (j - k + i)) k := by simp only [mixRows_at, diagRows_at]
    _ = _ := by simp only [hj]; exact hcall.symm

/-! ### A round -/

/-- The row registers after round `n` with the message registers `m` (spec/44_round_driver.md R180). -/
def roundRows (n : Fin 12) (m : MsgRegs) (r : Rows) : Rows :=
  undiagRows (mixRows (schedOperands n .diagonal m) (diagRows (mixRows (schedOperands n .column m) r)))

/-- A round of the scalar program is four calls of `G` on the columns and four on the diagonals, with the operands
that the two `SCHED` of the round load. -/
theorem scalarRound_eq_calls (n : Fin 12) (m : MsgRegs) (v : Words) :
    scalarRound m.words v n =
      scalarCalls diagIndex (operandAt (schedOperands n .diagonal m).b0 (schedOperands n .diagonal m).b1)
        (operandAt (schedOperands n .diagonal m).b2 (schedOperands n .diagonal m).b3) (List.finRange 4)
        (scalarCalls posIndex (operandAt (schedOperands n .column m).b0 (schedOperands n .column m).b1)
          (operandAt (schedOperands n .column m).b2 (schedOperands n .column m).b3) (List.finRange 4) v) := by
  simp only [scalarCalls, show List.finRange 4 = [0, 1, 2, 3] from rfl, List.foldl_cons, List.foldl_nil]
  rfl

/-- A round on the row registers is a round of the scalar program on their words. -/
theorem roundRows_words (n : Fin 12) (m : MsgRegs) (r : Rows) :
    (roundRows n m r).words = scalarRound m.words r.words n := by
  rw [roundRows, undiagRows_mixRows_diagRows_words, mixRows_words, scalarRound_eq_calls]

/-- The operand loading of a round of the ROM. -/
theorem exec_sched_ofNat (n : Fin 12) (h : Half) (s : State) :
    exec (.sched (BitVec.ofNat 4 n.val) h) s = .next (s.setOps (schedOperands n h s.msg)) := by
  have hn : (BitVec.ofNat 4 n.val).toNat = n.val := by
    rw [BitVec.toNat_ofNat, Nat.mod_eq_of_lt (by omega)]
  simp only [exec, execSched, hn, n.isLt, dite_true]

/-- `s` after the operands of half `h` of round `n` and both mixing steps. -/
def State.mixed (s : State) (n : Fin 12) (h : Half) : State :=
  (s.setOps (schedOperands n h s.msg)).setRows (mixRows (schedOperands n h s.msg) s.rows)

theorem runOps_colmix (n : Fin 12) (s : State) :
    runOps (colmix (BitVec.ofNat 4 n.val)) s = .next (s.mixed n .column) :=
  (runOps_cons_of_next (exec_sched_ofNat n .column s)).trans rfl

theorem runOps_diagmix (n : Fin 12) (s : State) :
    runOps (diagmix (BitVec.ofNat 4 n.val)) s = .next (s.mixed n .diagonal) :=
  (runOps_cons_of_next (exec_sched_ofNat n .diagonal s)).trans rfl

/-- The diagonal phase of round `n`, on the state. -/
theorem runOps_diagPhase (n : Fin 12) (s : State) :
    ∃ t, runOps ([.diag] ++ diagmix (BitVec.ofNat 4 n.val) ++ [.undiag]) s = .next t ∧
      t.rows = undiagRows (mixRows (schedOperands n .diagonal s.msg) (diagRows s.rows)) :=
  ⟨_, (runOps_append (runOps_diagmix n (s.clobberScratch.setRows (diagRows s.rows)))).trans rfl, rfl⟩

/-- The eight micro-operations of round `n` run to the end and leave `roundRows` in the row registers. -/
theorem runOps_roundOps (n : Fin 12) (s : State) :
    ∃ t, runOps (roundOps (BitVec.ofNat 4 n.val)) s = .next t ∧ t.rows = roundRows n s.msg s.rows := by
  obtain ⟨t, ht, hrows⟩ := runOps_diagPhase n (s.mixed n .column)
  refine ⟨t, ?_, hrows⟩
  rwa [roundOps, List.append_assoc, List.append_assoc, runOps_append (runOps_colmix n s), ← List.append_assoc]

/-! ### The rounds of an invocation -/

/-- The micro-operations of the first `k` rounds. -/
theorem compressOps_take {k : Nat} (hk : k ≤ 12) :
    compressOps.take (8 * k) = (List.range k).flatMap fun r => roundOps (BitVec.ofNat 4 r) := by
  interval_cases k <;> rfl

/-- The first `k` rounds leave in `V` what the scalar program's first `k` rounds do. -/
theorem runOps_rounds {k : Nat} (hk : k ≤ 12) (s : State) :
    ∃ t, runOps ((List.range k).flatMap fun r => roundOps (BitVec.ofNat 4 r)) s = .next t ∧
      t.v = ((List.finRange 12).take k).foldl (scalarRound s.m) s.v := by
  induction k with
  | zero => exact ⟨s, rfl, rfl⟩
  | succ k ih =>
    obtain ⟨u, hu, hv⟩ := ih (by omega)
    obtain ⟨t, ht, hrows⟩ := runOps_roundOps ⟨k, hk⟩ u
    refine ⟨t, ?_, ?_⟩
    · simpa [List.range_succ, runOps_append hu] using ht
    · have htake : (List.finRange 12).take (k + 1) = (List.finRange 12).take k ++ [⟨k, hk⟩] := by
        rw [List.take_succ_eq_append_getElem (by simpa using hk), List.getElem_finRange]
        rfl
      calc t.v = scalarRound u.m u.v ⟨k, hk⟩ := (congrArg Rows.words hrows).trans (roundRows_words ..)
        _ = scalarRound s.m u.v ⟨k, hk⟩ := by rw [State.m, runOps_msg hu, State.m]
        _ = _ := by rw [hv, htake, List.foldl_concat]

/-- Settles O47: the first `8 * k` steps run the first `k` rounds, and each is a round of the scalar program. -/
theorem roundBoundariesHoldScalarWords : Obligations.RoundBoundariesHoldScalarWords := by
  intro s k hb hu ha hk
  obtain ⟨u, hrun, hv⟩ := runOps_rounds hk s
  rw [← compressOps_take hk] at hrun
  refine ⟨_, runSteps_of_runOps (by omega) hb hu ha hrun, ?_⟩
  rw [← hv, State.v, State.atBoundary_rows, State.v]

end Sys2Proof.Machine
end

section
/-! SUPPORT. Host transactions (spec/20_memory.md R53 to R60): what a read returns at each address, which writes do
nothing, and which may be repeated. -/

namespace Sys2Proof.Machine

/-! ### Reads -/

/-- A read step of the machine leaves the core and hands the host its value. -/
theorem step_read {s : State} {a : HostAddr} {rest : List Event} (h : s.agenda = .host (.read a) :: rest) :
    step s = .next { s with agenda := rest, replies := s.replies ++ [⟨a, hread s a⟩] } :=
  step_of_event h

/-- The value of `STATUS`: `DONE` in bit 1, `BUSY` in bit 0 (spec/10_state.md R29). -/
theorem statusWord_eq_ofNat (s : State) : statusWord s = BitVec.ofNat 64 (2 * s.done.toNat + s.busy.toNat) := by
  unfold statusWord
  cases s.done <;> cases s.busy <;> rfl

/-- A reserved address reads 0 (spec/20_memory.md R59). -/
theorem hread_reserved (s : State) {a : HostAddr} (ha : 0x22 ≤ a.toNat) : hread s a = 0 := by
  have hv : ¬ a ≤ Config.vLast := fun h => absurd (ha.trans h) (by decide)
  have hm : ¬ a ≤ Config.msgLast := fun h => absurd (ha.trans h) (by decide)
  have hs : a ≠ Config.statusAddr := fun h => absurd (h ▸ ha) (by decide)
  simp [hread, hv, hm, hs]

/-- Settles O33: a read step is `step_read`, and the values are those of the five kinds of address. -/
theorem hreadReturnsAndChangesNothing : Obligations.HreadReturnsAndChangesNothing :=
  ⟨fun _ _ _ => step_read, hread_v, hread_msg, hread_ctrl, statusWord_eq_ofNat, fun s _ => hread_reserved s⟩

/-! ### Writes -/

/-- A write step of the machine is `hwrite`, once the event is off the agenda. -/
theorem step_write {s : State} {a : HostAddr} {d : Word} {rest : List Event}
    (h : s.agenda = .host (.write a d) :: rest) : step s = .next (hwrite (s.setAgenda rest) a d) :=
  step_of_event h

/-- Above the words of `V` and `MSG` the one write with an effect is `START` (spec/20_memory.md R58, R59). -/
theorem hwrite_eq_self_of_not_start (s : State) {a : HostAddr} {d : Word} (ha : 0x20 ≤ a.toNat)
    (hd : ¬(a = 0x20 ∧ d.getLsbD 0 = true)) : hwrite s a d = s := by
  rcases hwrite_cases s a d with h | ⟨-, i, hi, -⟩ | ⟨-, i, hi, -⟩ | ⟨-, hctrl, hbit, -⟩
  · exact h
  · omega
  · omega
  · exact absurd ⟨hctrl, hbit⟩ hd

/-- From `STATUS` on, writes are ignored (spec/20_memory.md R54, R59). -/
theorem hwrite_of_status_le (s : State) {a : HostAddr} (d : Word) (ha : 0x21 ≤ a.toNat) : hwrite s a d = s :=
  hwrite_eq_self_of_not_start s (by omega) fun ⟨h, _⟩ => absurd (h ▸ ha) (by decide)

/-- The words `V[0..15]` after a write of `V[i]`. -/
theorem Rows.words_setWord (r : Rows) (i : Fin 16) (w : Word) : (r.setWord i w).words = r.words.set i w :=
  rows_words_ofWords _

/-- The words `MSG[0..15]` after a write of `MSG[i]`. -/
theorem MsgRegs.words_setWord (m : MsgRegs) (i : Fin 16) (w : Word) : (m.setWord i w).words = m.words.set i w :=
  msg_words_ofWords _

/-- Settles O34: `hwrite_v` and `hwrite_msg` for the words, `hwrite_ctrl` for `START`, and the addresses above it. -/
theorem hwriteWritesItsWord : Obligations.HwriteWritesItsWord := by
  refine ⟨fun _ _ _ _ => step_write, fun s a d hb => hwrite_busy hb a d, fun s i d hb => ?_, fun s i d hb => ?_,
    fun s d hb => ?_, fun s a d => hwrite_of_status_le s d⟩
  · rw [hwrite_v hb]
    exact ⟨s.rows.words_setWord i d, rfl⟩
  · rw [hwrite_msg hb]
    exact ⟨s.msg.words_setWord i d, rfl⟩
  · exact (hwrite_ctrl s d).trans (by simp [hb])

/-! ### Transactions while `BUSY` = 1, and at reserved addresses -/

/-- Settles O36: a write is dropped; a read step hands the host `hread`, whose values do not ask for `BUSY` = 0. -/
theorem hostAccessWhileBusy : Obligations.HostAccessWhileBusy := by
  intro s rest hb
  refine ⟨fun a d h => ?_, fun a h => ⟨_, step_read h, rfl, ?_, ?_, ?_⟩⟩
  · rw [step_write h, hwrite_busy (s := s.setAgenda rest) hb]
  · rintro rfl
    exact ⟨_, rfl, (statusWord_getLsbD_zero s).trans hb⟩
  · rintro i rfl
    rw [hread_v]
    rfl
  · rintro i rfl
    rw [hread_msg]
    rfl

/-- Settles O37: a host transaction is total by the form of `eventTurn`. -/
theorem reservedAddressesAreInert : Obligations.ReservedAddressesAreInert := fun s a d =>
  ⟨fun ha => ⟨hread_reserved s ha, hwrite_of_status_le s d (by omega)⟩, hread_ctrl s, hwrite_status s d,
    _, _, rfl, rfl⟩

/-! ### Repeated transactions -/

/-- A second write of a word is the one that counts. -/
theorem Rows.setWord_setWord (r : Rows) (i : Fin 16) (w w' : Word) : (r.setWord i w).setWord i w' = r.setWord i w' := by
  rw [Rows.setWord, Rows.words_setWord, Vector.set_set, ← Rows.setWord]

/-- A second write of a message word is the one that counts. -/
theorem MsgRegs.setWord_setWord (m : MsgRegs) (i : Fin 16) (w w' : Word) :
    (m.setWord i w).setWord i w' = m.setWord i w' := by
  rw [MsgRegs.setWord, MsgRegs.words_setWord, Vector.set_set, ← MsgRegs.setWord]

/-- A write of any address but `CTRL` may be repeated. -/
theorem hwrite_hwrite_same (s : State) {a : HostAddr} (d : Word) (ha : a ≠ 0x20) :
    hwrite (hwrite s a d) a d = hwrite s a d := by
  cases hb : s.busy with
  | true => rw [hwrite_busy hb, hwrite_busy hb]
  | false =>
    rcases hostAddr_cases a with ⟨i, rfl⟩ | ⟨i, rfl⟩ | hctrl | rfl | hres
    · rw [hwrite_v hb, hwrite_v (by exact hb), State.setRows_rows, Rows.setWord_setWord]
      rfl
    · rw [hwrite_msg hb, hwrite_msg (by exact hb), State.setMsg_msg, MsgRegs.setWord_setWord]
      rfl
    · exact absurd hctrl ha
    · rw [hwrite_status, hwrite_status]
    · rw [hwrite_of_status_le s d (by omega), hwrite_of_status_le s d (by omega)]

/-- A write that is not `START` changes the row and message registers at most. -/
theorem hwrite_frame_of_not_start (s : State) {a : HostAddr} {d : Word} (hd : ¬(a = 0x20 ∧ d.getLsbD 0 = true)) :
    hwrite s a d = { s with rows := (hwrite s a d).rows, msg := (hwrite s a d).msg } := by
  rcases hwrite_cases s a d with h | ⟨-, i, -, h⟩ | ⟨-, i, -, h⟩ | ⟨-, hctrl, hbit, -⟩
  · rw [h]
  · rw [h]; rfl
  · rw [h]; rfl
  · exact absurd ⟨hctrl, hbit⟩ hd

/-- A write that is not `START` shows at its own address only. -/
theorem hread_hwrite_of_ne (s : State) {a b : HostAddr} {d : Word} (hd : ¬(a = 0x20 ∧ d.getLsbD 0 = true))
    (hne : b ≠ a) : hread (hwrite s a d) b = hread s b := by
  cases hb : s.busy with
  | true => rw [hwrite_busy hb]
  | false =>
    rcases Nat.lt_or_ge a.toNat 0x20 with hlt | hge
    · rw [writeThenRead s a b d hb hlt, if_neg hne]
    · rw [hwrite_eq_self_of_not_start s hge hd]

/-- An accepted `START` (spec/45_host_commands.md R211). -/
theorem hwrite_start {s : State} {d : Word} (hb : s.busy = false) (hd : d.getLsbD 0 = true) :
    hwrite s 0x20 d = s.setControl 0 true false :=
  (hwrite_ctrl s d).trans (by simp [hb, hd, start])

/-- Settles O38: reads by the form of `hostTurn`; writes by whether they are `START`. -/
theorem transactionsAreIdempotentButStart : Obligations.TransactionsAreIdempotentButStart := by
  refine ⟨fun s a => ⟨rfl, fun b => rfl⟩, fun s a d => hwrite_hwrite_same s d,
    fun s a d hd => ⟨hwrite_frame_of_not_start s hd, fun b => hread_hwrite_of_ne s hd⟩, fun s d hd hb _ => ?_⟩
  rw [hwrite_start hb hd]
  exact ⟨rfl, rfl, rfl⟩

end Sys2Proof.Machine
end

section
/-! SUPPORT. An invocation among host transactions (spec/20_memory.md R60, R61): between the sequencer's turns the
host moves its own agenda and record only. -/

namespace Sys2Proof.Machine

/-! ### `COMPRESS` as a run of micro-operations -/

/-- The ROM as a test program is `COMPRESS`. -/
theorem runMicro_rom (s : State) : runMicro rom s = runOps compressOps s :=
  runMicro_of_decodeProgram (by decide) s

/-- The micro-operations of `COMPRESS` run to the end from every state, and leave what the scalar program does. -/
theorem runOps_compressOps (s : State) :
    ∃ t, runOps compressOps s = .next t ∧ t.v = scalarCompress s.v s.m := by
  obtain ⟨t, ht, hv⟩ := runOps_rounds le_rfl s
  exact ⟨t, ht, by rw [hv, List.take_of_length_le (by simp), scalarCompress]⟩

/-- `COMPRESS` is the scalar program, which is what its micro-operations compute from any state. -/
theorem compress_eq_scalarCompress (v m : Words) : compress v m = some (scalarCompress v m) := by
  obtain ⟨u, hu, hv⟩ := runOps_compressOps (loaded v m)
  have hv₀ : (loaded v m).v = v := rows_words_ofWords v
  have hm₀ : (loaded v m).m = m := msg_words_ofWords m
  rw [hv₀, hm₀] at hv
  rw [compress, runMicro_rom, hu, ← hv]

/-! ### The host's own part of the state -/

/-- Writes the agenda and the host's record, the parts of the state that are the model's and not the core's. -/
def State.setHost (s : State) (l : List Event) (q : List Reply) : State := { s with agenda := l, replies := q }

@[simp] theorem State.setHost_self (s : State) : s.setHost s.agenda s.replies = s := rfl

/-- A micro-operation neither reads nor writes the host's part. -/
theorem exec_setHost {i : Instr} {s t : State} (h : exec i s = .next t) (l : List Event) (q : List Reply) :
    exec i (s.setHost l q) = .next (t.setHost l q) := by
  rcases exec_cases h with ⟨r, k, hr, rfl, rfl⟩ | ⟨rfl, rfl⟩ | ⟨rfl, rfl⟩ | ⟨rfl, rfl⟩ | ⟨rfl, rfl⟩
  · exact dif_pos hr
  all_goals rfl

/-! ### One event of an invocation -/

/-- The sequencer's turn at boundary `n` runs micro-operation `n`. -/
theorem step_sequencer_atBoundary {s t : State} {n : Nat} (hn : n < 96) (d : Bool) (l : List Event) (q : List Reply)
    (h : exec (compressOps[n]'(by rw [compressOps_length]; exact hn)) s = .next t) :
    step ((s.setHost (.sequencer :: l) q).atBoundary n d) = .next ((t.setHost l q).atBoundary (n + 1) d) := by
  obtain ⟨b, hb, hi⟩ := fetch_decode hn
  rw [← advance_atBoundary _ hn, State.atBoundary_of_lt _ hn, State.atBoundary_of_lt _ hn, step_of_event rfl]
  exact (seqTurn_busy rfl).trans (seqStep_of hb hi (exec_setControl (exec_setHost h l q) _ _ _))

/-- A host transaction at a boundary before the last leaves the core: a read by its form, a write by being dropped. -/
theorem step_host_atBoundary (s : State) {n : Nat} (hn : n < 96) (d : Bool) (c : HostCmd) (l : List Event)
    (q : List Reply) :
    ∃ q', step ((s.setHost (.host c :: l) q).atBoundary n d) = .next ((s.setHost l q').atBoundary n d) := by
  simp only [State.atBoundary_of_lt _ hn]
  cases c with
  | read a => exact ⟨_, step_read rfl⟩
  | write a w => exact ⟨q, (step_write rfl).trans (congrArg _ (hwrite_busy rfl a w))⟩

/-! ### A whole schedule -/

/-- From boundary `n` to the completion: the sequencer's turns run the micro-operations from `n` on, whatever host
transactions stand among them. -/
theorem runSteps_schedule {p : List Event} (rest : List Event) (hp : ∀ e ∈ p, e.notReset = true) {n : Nat}
    (hn : n + p.count .sequencer = 95) {s u : State} (h : runOps (compressOps.drop n) s = .next u) (d : Bool)
    (q : List Reply) :
    ∃ q', runSteps (p.length + 1) ((s.setHost (p ++ .sequencer :: rest) q).atBoundary n d) =
      .next ((u.setHost rest q').atBoundary 96 d) := by
  have hlt : n < 96 := by omega
  induction p generalizing n s q with
  | nil =>
    obtain rfl : n = 95 := by simpa using hn
    obtain ⟨t, ht, hend⟩ := runOps_cons_next h
    cases hend
    exact ⟨q, runSteps_succ (step_sequencer_atBoundary hlt d rest q ht)⟩
  | cons e p ih =>
    have hp' : ∀ e ∈ p, e.notReset = true := fun e he => hp e (List.mem_cons_of_mem _ he)
    cases e with
    | sequencer =>
      rw [List.count_cons_self] at hn
      rw [List.drop_eq_getElem_cons (by rw [compressOps_length]; exact hlt)] at h
      obtain ⟨t, ht, hrest⟩ := runOps_cons_next h
      obtain ⟨q', hq⟩ := ih hp' (by omega) hrest q (by omega)
      exact ⟨q', (runSteps_succ (step_sequencer_atBoundary hlt d _ q ht)).trans hq⟩
    | host c =>
      rw [List.count_cons_of_ne (by simp)] at hn
      obtain ⟨q₁, hstep⟩ := step_host_atBoundary s hlt d c (p ++ .sequencer :: rest) q
      obtain ⟨q', hq⟩ := ih hp' hn h q₁ hlt
      exact ⟨q', (runSteps_succ hstep).trans hq⟩
    | reset => exact absurd (hp .reset List.mem_cons_self) (by decide)

/-- Settles O49: the schedule runs the micro-operations of `COMPRESS`, all 96 of them, from the state that the
invocation starts in. -/
theorem hostCannotDisturbInvocation : Obligations.HostCannotDisturbInvocation := by
  intro s p rest hb hu hp hcount ha
  obtain ⟨u, hrun, hv⟩ := runOps_compressOps s
  obtain ⟨q, hq⟩ := runSteps_schedule rest hp (by rw [hcount]) (n := 0) hrun s.done s.replies
  rw [← ha, State.setHost_self, State.atBoundary_zero hb hu] at hq
  have hmsg : u.msg = s.msg := runOps_msg hrun
  exact ⟨_, hq, (congrArg some hv).trans (compress_eq_scalarCompress s.v s.m).symm, hmsg, rfl, rfl, rfl, rfl⟩

end Sys2Proof.Machine
end

section
/-! SUPPORT. The encoding (spec/30_encoding.md): the decoder and the encoder undo each other on the well-formed
micro-operations and the legal bytes, and with that the legal bytes as numbers (R82, R85) and the ROM image (R90). -/

namespace Sys2Proof

/-! ### The three fields of a byte -/

@[simp] theorem opcField_formatU (opc : BitVec 3) (h : BitVec 1) (r : BitVec 4) : opcField (formatU opc h r) = opc := by
  rw [opcField, formatU, BitVec.extractLsb'_append_eq_of_le (by decide), BitVec.extractLsb'_append_eq_of_le (by decide)]
  exact BitVec.extractLsb'_eq_self

@[simp] theorem hField_formatU (opc : BitVec 3) (h : BitVec 1) (r : BitVec 4) : hField (formatU opc h r) = h := by
  rw [hField, formatU, BitVec.extractLsb'_append_eq_of_le (by decide),
    BitVec.extractLsb'_append_eq_of_add_le (by decide)]
  exact BitVec.extractLsb'_eq_self

@[simp] theorem rField_formatU (opc : BitVec 3) (h : BitVec 1) (r : BitVec 4) : rField (formatU opc h r) = r := by
  rw [rField, formatU, BitVec.extractLsb'_append_eq_of_add_le (by decide)]
  exact BitVec.extractLsb'_eq_self

/-- A byte is its three fields (spec/30_encoding.md R80). -/
theorem formatU_fields (b : Byte) : formatU (opcField b) (hField b) (rField b) = b := by
  rw [formatU, opcField, hField, rField, BitVec.extractLsb'_append_extractLsb'_eq_extractLsb' (by decide),
    BitVec.extractLsb'_append_extractLsb'_eq_extractLsb' (by decide)]
  exact BitVec.extractLsb'_eq_self

@[simp] theorem opcField_toNat (b : Byte) : (opcField b).toNat = b.toNat / 32 := by
  have := b.isLt
  rw [opcField, BitVec.extractLsb'_toNat, Nat.shiftRight_eq_div_pow]
  omega

@[simp] theorem rField_toNat (b : Byte) : (rField b).toNat = b.toNat % 16 := by
  rw [rField, BitVec.extractLsb'_toNat, Nat.shiftRight_zero]

@[simp] theorem halfOfBit_bit (h : Half) : halfOfBit h.bit = h := by cases h <;> rfl

@[simp] theorem bit_halfOfBit (h : BitVec 1) : (halfOfBit h).bit = h := by revert h; decide

/-! ### Decoder and encoder -/

/-- The `SCHED` row of the opcode map (spec/30_encoding.md R82). -/
theorem decode_sched {b : Byte} (hopc : b.toNat / 32 = 0) (hr : b.toNat % 16 ≤ 11) :
    decode b = .instr (.sched (rField b) (halfOfBit (hField b))) := by
  rw [← opcField_toNat] at hopc
  rw [← rField_toNat] at hr
  rw [decode, hopc]
  exact if_pos hr

/-- Settles O1: a `SCHED` by its fields, the others by their one byte. -/
theorem decodeOfEncodeIsInstr : Obligations.DecodeOfEncodeIsInstr := by
  intro i hi
  cases i with
  | sched r h =>
    have hr : r.toNat ≤ 11 := by simpa [Instr.wellFormed] using hi
    have hopc : (encode (.sched r h)).toNat / 32 = 0 := by rw [← opcField_toNat, encode, opcField_formatU]; rfl
    have hfield : (encode (.sched r h)).toNat % 16 ≤ 11 := by rwa [← rField_toNat, encode, rField_formatU]
    rw [decode_sched hopc hfield, encode, rField_formatU, hField_formatU, halfOfBit_bit]
  | g1 | g2 | diag | undiag => rfl

/-- A byte that an operation code without operands accepts is the encoding of its micro-operation. -/
theorem encode_of_plainOp {b : Byte} {opc : BitVec 3} {i j : Instr} (h : plainOp b i = .instr j)
    (hopc : (opcField b).toNat = opc.toNat) (hi : encode i = formatU opc 0 0) : encode j = b := by
  rw [eq_of_plainOp_eq_instr h, hi]
  unfold plainOp at h
  split at h
  · rename_i hz
    rw [← formatU_fields b, hz.1, hz.2, BitVec.eq_of_toNat_eq hopc]
  · cases h

/-- What a byte decodes to encodes as the byte. -/
theorem encode_of_decode {b : Byte} {i : Instr} (h : decode b = .instr i) : encode i = b := by
  unfold decode at h
  split at h
  case h_1 hopc =>
    split at h
    · cases h
      have hzero : opcField b = 0b000 := BitVec.eq_of_toNat_eq hopc
      rw [encode, bit_halfOfBit, ← hzero, formatU_fields]
    · cases h
  case h_2 hopc => exact encode_of_plainOp (opc := 0b001) h hopc rfl
  case h_3 hopc => exact encode_of_plainOp (opc := 0b010) h hopc rfl
  case h_4 hopc => exact encode_of_plainOp (opc := 0b011) h hopc rfl
  case h_5 hopc => exact encode_of_plainOp (opc := 0b100) h hopc rfl
  case h_6 => cases h

/-- Settles O2: `wellFormed_of_decode` and `encode_of_decode`. -/
theorem encodeOfDecodeIsByte : Obligations.EncodeOfDecodeIsByte :=
  fun _ _ h => ⟨wellFormed_of_decode h, encode_of_decode h⟩

/-- Settles O4: each byte is the encoding of its micro-operation. -/
theorem writtenOutWordsDecode : Obligations.WrittenOutWordsDecode :=
  ⟨decodeOfEncodeIsInstr (.sched 0 .column) rfl, decodeOfEncodeIsInstr (.sched 11 .column) rfl,
    decodeOfEncodeIsInstr (.sched 0 .diagonal) rfl, decodeOfEncodeIsInstr (.sched 11 .diagonal) rfl,
    decodeOfEncodeIsInstr .g1 rfl, decodeOfEncodeIsInstr .g2 rfl, decodeOfEncodeIsInstr .diag rfl,
    decodeOfEncodeIsInstr .undiag rfl⟩

/-! ### The legal bytes -/

/-- The legal bytes are the encodings of the well-formed micro-operations. -/
theorem isReserved_eq_false_iff_encode (b : Byte) :
    isReserved b = false ↔ ∃ i : Instr, i.wellFormed = true ∧ encode i = b := by
  rw [isReserved_eq_false_iff]
  constructor
  · rintro ⟨i, hi⟩
    exact ⟨i, encodeOfDecodeIsByte b i hi⟩
  · rintro ⟨i, hi, rfl⟩
    exact ⟨i, decodeOfEncodeIsInstr i hi⟩

/-- The legal bytes as numbers: 24 of `SCHED`, and one for each of the other four micro-operations
(spec/30_encoding.md R82). -/
theorem isReserved_eq_false_iff_toNat (b : Byte) :
    isReserved b = false ↔ (b.toNat / 32 = 0 ∧ b.toNat % 16 ≤ 11) ∨
      b.toNat = 0x20 ∨ b.toNat = 0x40 ∨ b.toNat = 0x60 ∨ b.toNat = 0x80 := by
  rw [isReserved_eq_false_iff_encode]
  constructor
  · rintro ⟨i, hi, rfl⟩
    cases i with
    | sched r h =>
      rw [← opcField_toNat, ← rField_toNat, encode, opcField_formatU, rField_formatU]
      exact .inl ⟨rfl, of_decide_eq_true hi⟩
    | g1 | g2 | diag | undiag => exact .inr (by decide)
  · rintro (⟨hopc, hr⟩ | hb | hb | hb | hb)
    · exact ⟨_, encodeOfDecodeIsByte _ _ (decode_sched hopc hr)⟩
    · exact ⟨.g1, rfl, BitVec.eq_of_toNat_eq hb.symm⟩
    · exact ⟨.g2, rfl, BitVec.eq_of_toNat_eq hb.symm⟩
    · exact ⟨.diag, rfl, BitVec.eq_of_toNat_eq hb.symm⟩
    · exact ⟨.undiag, rfl, BitVec.eq_of_toNat_eq hb.symm⟩

/-! ### The opcode table -/

/-- Every encoding fits its row of the opcode table: the family `FitsRow` as one statement. -/
theorem fitsRow_encode (i : Instr) : Laws.FitsRow.Statement i := by
  cases i with
  | sched r h => exact Laws.FitsRow.sched r h
  | g1 => exact Laws.FitsRow.g1
  | g2 => exact Laws.FitsRow.g2
  | diag => exact Laws.FitsRow.diag
  | undiag => exact Laws.FitsRow.undiag

/-- The mask of the `SCHED` row selects `opc`. -/
theorem and_0xE0_eq_zero_iff (b : Byte) : b &&& 0xE0 = 0 ↔ b.toNat / 32 = 0 := by
  revert b; decide

/-- The bits 3:0 of a byte as a number. -/
theorem and_0x0F_toNat (b : Byte) : (b &&& 0x0F).toNat = b.toNat % 16 :=
  Nat.and_two_pow_sub_one_eq_mod b.toNat 4

/-- The bytes that fit a row of the opcode table, its constraint apart (spec/30_encoding.md R82). -/
theorem exists_row_fits_iff (b : Byte) :
    (∃ row ∈ opcodeTable, row.fits b = true) ↔
      b.toNat / 32 = 0 ∨ b.toNat = 0x20 ∨ b.toNat = 0x40 ∨ b.toNat = 0x60 ∨ b.toNat = 0x80 := by
  have hrows : (∃ row ∈ opcodeTable, row.fits b = true) ↔
      b &&& 0xE0 = 0 ∨ b &&& 0xFF = 0x20 ∨ b &&& 0xFF = 0x40 ∨ b &&& 0xFF = 0x60 ∨ b &&& 0xFF = 0x80 := by
    simp [opcodeTable, OpcodeRow.fits]
  have hfull : b &&& 0xFF = b := BitVec.and_allOnes
  rw [hrows, hfull, and_0xE0_eq_zero_iff]
  simp only [BitVec.toNat_eq]
  rfl

/-- Bit 4 of a byte is the phase of a `SCHED` (spec/30_encoding.md R80). -/
theorem halfOfBit_hField (b : Byte) : halfOfBit (hField b) = if b.getLsbD 4 then .diagonal else .column := by
  revert b; decide

/-- Settles O3: the rows by `fitsRow_encode`, the legal bytes by their numbers. -/
theorem opcodeTableDecidesDecoding : Obligations.OpcodeTableDecidesDecoding := by
  refine ⟨rfl, fun b i h => ?_, fun b => ?_, fun b hopc hr => ?_, fun b => ?_⟩
  · rw [← encode_of_decode h]
    exact fitsRow_encode i
  · rw [isReserved_eq_false_iff_toNat, exists_row_fits_iff, and_0xE0_eq_zero_iff, and_0x0F_toNat]
    omega
  · rw [and_0xE0_eq_zero_iff] at hopc
    rw [and_0x0F_toNat] at hr
    rw [decode_sched hopc hr, halfOfBit_hField]
    rfl
  · rw [isReserved_eq_false_iff_toNat]
    simp only [List.mem_cons, List.not_mem_nil, or_false]
    omega

namespace Machine

/-! ### The ROM and reserved bytes -/

/-- The ROM is the encoding of `COMPRESS` (spec/44_round_driver.md R180). -/
theorem rom_eq_map_encode : rom = compressOps.map encode := by decide

/-- A micro-program that contains a reserved byte does not decode; its first one is named. -/
theorem decodeProgram_of_reserved {prog : List Byte} (h : ∃ b ∈ prog, isReserved b = true) :
    ∃ b ∈ prog, isReserved b = true ∧ decodeProgram prog = .inl b := by
  induction prog with
  | nil => simp at h
  | cons c bs ih =>
    cases hc : decode c with
    | reserved why => exact ⟨c, List.mem_cons_self, by simp [isReserved, hc], by simp [decodeProgram, hc]⟩
    | instr i =>
      have hlegal : isReserved c = false := (isReserved_eq_false_iff c).mpr ⟨i, hc⟩
      obtain ⟨b, hb, hres, hdec⟩ := ih (by simpa [hlegal] using h)
      exact ⟨b, List.mem_cons_of_mem _ hb, hres, by simp [decodeProgram, hc, hdec]⟩

/-- Settles O5: the count by running the decoder on every byte, the classes as numbers, and the ROM as encodings. -/
theorem reservedBytesAreRefused : Obligations.ReservedBytesAreRefused := by
  refine ⟨rfl, fun b => ?_, fun b hb => ?_, fun prog s h => ?_⟩
  · rw [← Bool.not_eq_false, isReserved_eq_false_iff_toNat]
    simp only [List.mem_cons, List.not_mem_nil, or_false]
    omega
  · rw [rom_eq_map_encode] at hb
    obtain ⟨i, hi, rfl⟩ := List.mem_map.mp hb
    exact (isReserved_eq_false_iff_encode _).mpr ⟨i, wellFormed_of_mem_compressOps i hi, rfl⟩
  · obtain ⟨b, hb, hres, hdec⟩ := decodeProgram_of_reserved h
    exact ⟨b, hb, hres, by rw [runMicro, hdec]⟩

/-- Settles O7: the term is not well formed, so no byte decodes to it. -/
theorem reservedRoundIsRefused : Obligations.ReservedRoundIsRefused := by
  intro r h s hr
  refine ⟨dif_neg (Nat.not_lt.mpr hr), fun b hb => ?_⟩
  have hle : r.toNat ≤ 11 := of_decide_eq_true (wellFormed_of_decode hb)
  omega

/-! ### The ROM image and its loop form -/

/-- The loop form makes the same program as the ROM (spec/44_round_driver.md R189). -/
theorem fetch_eq_loopByte (u : BitVec 7) : fetch u = if u.toNat ≤ 95 then some (loopByte u) else none := by
  revert u; decide

/-- Bit 2 of `UPC` is the upper bit of its `STEP` field. -/
theorem extractLsb'_stepField (u : BitVec 7) : (stepField u).extractLsb' 2 1 = u.extractLsb' 2 1 := by
  revert u; decide

/-- The fields of the byte that the loop form makes at the two `SCHED` steps of a round. -/
theorem loopByte_sched {u : BitVec 7} (hu : stepField u = 0 ∨ stepField u = 4) :
    loopByte u = formatU 0b000 (u.extractLsb' 2 1) (rndField u) := by
  rw [← extractLsb'_stepField]
  rcases hu with hu | hu <;> rw [loopByte, hu] <;> rfl

/-- Settles O8: the image entry by entry, and the fields of its `SCHED` bytes by the loop form. -/
theorem romImageIsTheSpecs : Obligations.RomImageIsTheSpecs := by
  refine ⟨rfl, by decide, fun u b hb hu => ?_, fun _ => rfl, rom_eq_map_encode, by decide, fetch_eq_loopByte⟩
  have hbyte : loopByte u = b := by
    rw [fetch_eq_loopByte] at hb
    split at hb
    · exact Option.some.inj hb
    · cases hb
  rw [← hbyte, loopByte_sched hu]
  exact ⟨rField_formatU .., hField_formatU ..⟩

end Machine
end Sys2Proof
end

section
/-! SUPPORT. The rotation (spec/40_rotation.md) by its bits: bit `i` of the formula is bit `(i + n) mod 64` of the word.
The laws and the shortcut forms follow from this one rule. -/

namespace Sys2Proof.Machine

/-! ### The formula by bits -/

/-- The bit rule of spec/40_rotation.md R100, for the formula at every amount below 64: a bit of the result comes from
the right shift where `i + n` stays inside the word, and from the left shift where it wraps. -/
theorem shiftCombine_getLsbD (x : Word) {n i : Nat} (hn : n < 64) (hi : i < 64) :
    (shiftCombine x n).getLsbD i = x.getLsbD ((i + n) % 64) := by
  rw [shiftCombine, BitVec.getLsbD_or, BitVec.getLsbD_ushiftRight, BitVec.getLsbD_shiftLeft]
  by_cases hwrap : i + n < 64
  · have hleft : i < 64 - n := by omega
    simp [hleft, Nat.mod_eq_of_lt hwrap, Nat.add_comm n i]
  · have hleft : ¬i < 64 - n := by omega
    have hsource : (i + n) % 64 = i - (64 - n) := by omega
    simp [hi, hleft, hsource, BitVec.getLsbD_of_ge x (n + i) (by omega)]

/-- Every amount of the hardware is one at which the formula has its meaning. -/
theorem RotAmount.bits_range (a : RotAmount) : 1 ≤ a.bits ∧ a.bits ≤ 63 := by
  cases a <;> decide

/-- The amounts of the hardware (spec/40_rotation.md R102). -/
theorem RotAmount.mem_bits_iff (n : Nat) : n ∈ [32, 24, 16, 63] ↔ ∃ a : RotAmount, a.bits = n := by
  constructor
  · intro h
    simp only [List.mem_cons, List.not_mem_nil, or_false] at h
    rcases h with rfl | rfl | rfl | rfl
    exacts [⟨.by32, rfl⟩, ⟨.by24, rfl⟩, ⟨.by16, rfl⟩, ⟨.by63, rfl⟩]
  · rintro ⟨a, rfl⟩
    cases a <;> decide

/-- The formula on unbounded numbers: only the left shift leaves the word. -/
theorem shiftCombine_toNat (x : Word) (n : Nat) :
    (shiftCombine x n).toNat = ((x.toNat >>> n) ||| (x.toNat <<< (64 - n))) % 2 ^ 64 := by
  have hright : x.toNat >>> n < 2 ^ 64 := (Nat.shiftRight_le _ _).trans_lt x.isLt
  rw [shiftCombine, BitVec.toNat_or, BitVec.toNat_ushiftRight, BitVec.toNat_shiftLeft, Nat.or_mod_two_pow,
    Nat.mod_eq_of_lt hright]

/-- Settles O29: the formula on numbers, its bit rule, and `vrotr` lane by lane. -/
theorem rotationIsShiftCombine : Obligations.RotationIsShiftCombine :=
  ⟨fun x a => shiftCombine_toNat x a.bits,
    fun x a _ hi => shiftCombine_getLsbD x (Nat.lt_succ_of_le a.bits_range.2) hi,
    RotAmount.mem_bits_iff, by decide, fun _ _ => ⟨rfl, fun _ => ⟨rfl, rfl⟩⟩⟩

/-! ### The laws -/

/-- Rotating back by the complement restores the word: the two moves of a bit add up to 64. -/
theorem shiftCombine_complement (x : Word) {n : Nat} (h1 : 1 ≤ n) (h63 : n ≤ 63) :
    shiftCombine (shiftCombine x n) (64 - n) = x := by
  refine BitVec.eq_of_getLsbD_eq fun i hi => ?_
  have hround : ((i + (64 - n)) % 64 + n) % 64 = i := by omega
  rw [shiftCombine_getLsbD _ (by omega) hi, shiftCombine_getLsbD _ (by omega) (Nat.mod_lt _ (by decide)), hround]

/-- The rotation by the complement is the inverse on both sides. -/
theorem shiftCombine_bijective {n : Nat} (h1 : 1 ≤ n) (h63 : n ≤ 63) :
    Function.Bijective (fun x : Word => shiftCombine x n) := by
  refine Function.bijective_iff_has_inverse.mpr ⟨(shiftCombine · (64 - n)), fun x => ?_, fun x => ?_⟩
  · exact shiftCombine_complement x h1 h63
  · have hback := shiftCombine_complement x (n := 64 - n) (by omega) (by omega)
    rwa [Nat.sub_sub_self (by omega)] at hback

/-- The rotation distributes over `xor`: it only moves bits. -/
theorem shiftCombine_xor (x y : Word) {n : Nat} (hn : n < 64) :
    shiftCombine (x ^^^ y) n = shiftCombine x n ^^^ shiftCombine y n := by
  refine BitVec.eq_of_getLsbD_eq fun i hi => ?_
  simp only [BitVec.getLsbD_xor, shiftCombine_getLsbD _ hn hi]

/-- Settles O30: the laws of the formula at the amounts of the hardware. -/
theorem rotationLaws : Obligations.RotationLaws :=
  ⟨fun x _ => shiftCombine_complement x,
    fun x a => shiftCombine_complement x a.bits_range.1 a.bits_range.2,
    fun a => shiftCombine_bijective a.bits_range.1 a.bits_range.2,
    fun x y a => shiftCombine_xor x y (Nat.lt_succ_of_le a.bits_range.2)⟩

/-! ### The shortcut forms -/

/-- A field that the rotation does not tear apart is the field of the word `n` bits further on, modulo 64. -/
theorem extractLsb'_shiftCombine (x : Word) {n s l : Nat} (hn : n < 64) (hfield : s + l ≤ 64)
    (hsource : (s + n) % 64 + l ≤ 64) :
    (shiftCombine x n).extractLsb' s l = x.extractLsb' ((s + n) % 64) l := by
  refine BitVec.eq_of_getLsbD_eq fun i hi => ?_
  have hmove : (s + i + n) % 64 = (s + n) % 64 + i := by omega
  rw [BitVec.getLsbD_extractLsb', BitVec.getLsbD_extractLsb', shiftCombine_getLsbD x hn (by omega), hmove]

/-- A rotation by whole bytes moves bytes (spec/40_rotation.md R106). -/
theorem byteOf_shiftCombine (x : Word) {k i : Nat} (hk : k < 8) (hi : i < 8) :
    byteOf (shiftCombine x (8 * k)) i = byteOf x ((i + k) % 8) := by
  have hsource : (8 * i + 8 * k) % 64 = 8 * ((i + k) % 8) := by omega
  rw [byteOf, extractLsb'_shiftCombine x (by omega) (by omega) (by omega), hsource, byteOf]

/-- A word is its eight bytes. -/
theorem wordOfBytes_byteOf (x : Word) :
    wordOfBytes (byteOf x 0) (byteOf x 1) (byteOf x 2) (byteOf x 3) (byteOf x 4) (byteOf x 5) (byteOf x 6)
      (byteOf x 7) = x := by
  simp only [wordOfBytes, byteOf]
  iterate 7 rw [BitVec.extractLsb'_append_extractLsb'_eq_extractLsb' (by decide)]
  exact BitVec.extractLsb'_eq_self

/-- The byte shuffle by `k` places is the rotation by `8 * k` bits. -/
theorem wordOfBytes_rotated (x : Word) {k : Nat} (hk : k < 8) :
    wordOfBytes (byteOf x ((0 + k) % 8)) (byteOf x ((1 + k) % 8)) (byteOf x ((2 + k) % 8)) (byteOf x ((3 + k) % 8))
      (byteOf x ((4 + k) % 8)) (byteOf x ((5 + k) % 8)) (byteOf x ((6 + k) % 8)) (byteOf x ((7 + k) % 8)) =
      shiftCombine x (8 * k) := by
  rw [← wordOfBytes_byteOf (shiftCombine x (8 * k))]
  simp only [byteOf_shiftCombine x hk, Nat.reduceLT]

/-- The halves of the rotation by 32 are those of the word, swapped (spec/40_rotation.md R107). -/
theorem halfSwap_eq_shiftCombine (x : Word) : halfSwap x = shiftCombine x 32 := by
  have hhigh : (shiftCombine x 32).extractLsb' 32 32 = x.extractLsb' 0 32 :=
    extractLsb'_shiftCombine x (by decide) (by decide) (by decide)
  have hlow : (shiftCombine x 32).extractLsb' 0 32 = x.extractLsb' 32 32 :=
    extractLsb'_shiftCombine x (by decide) (by decide) (by decide)
  rw [halfSwap, ← hhigh, ← hlow, BitVec.extractLsb'_append_extractLsb'_eq_extractLsb' (by decide)]
  exact BitVec.extractLsb'_eq_self

/-- Doubling is the left shift by 1, whose bits the one bit of the right shift by 63 does not meet
(spec/40_rotation.md R108). -/
theorem doubling_eq_shiftCombine (x : Word) : doubling x = shiftCombine x 63 := by
  have hdouble : x + x = x <<< 1 := by
    rw [← BitVec.mul_two, BitVec.shiftLeft_eq_mul_twoPow]
    rfl
  rw [doubling, hdouble, shiftCombine]
  refine BitVec.eq_of_getLsbD_eq fun i _ => ?_
  rw [BitVec.getLsbD_xor, BitVec.getLsbD_or]
  by_cases hzero : i = 0
  · have hleft : (x <<< 1).getLsbD i = false := by simp [hzero]
    rw [hleft, Bool.xor_false, Bool.or_false]
  · have hright : (x >>> 63).getLsbD i = false := by
      rw [BitVec.getLsbD_ushiftRight, BitVec.getLsbD_of_ge x _ (by omega)]
    rw [hright, Bool.false_xor, Bool.false_or]

/-- Settles O31: the shuffles as rotations by 3 and 2 bytes, the half swap by the halves, the doubling as a shift. -/
theorem rotationShortcutsAgree : Obligations.RotationShortcutsAgree :=
  ⟨fun x _ => byteOf_shiftCombine x (k := 3) (by decide), fun x _ => byteOf_shiftCombine x (k := 2) (by decide),
    fun x => wordOfBytes_rotated x (k := 3) (by decide), fun x => wordOfBytes_rotated x (k := 2) (by decide),
    halfSwap_eq_shiftCombine, doubling_eq_shiftCombine⟩

end Sys2Proof.Machine
end

section
/-! SUPPORT. The micro-operations by what they leave alone (spec/41_mixing_g.md R126), the lane operations (R120), and
the mixing steps `G1` and `G2` by position (R122 to R124) and as the column calls of the scalar `G` (R125). -/

namespace Sys2Proof.Machine

/-! ### What a micro-operation leaves alone -/

theorem exec_upc {i : Instr} {s t : State} (h : exec i s = .next t) : t.upc = s.upc :=
  (congrArg State.upc (exec_frame h) :)

theorem exec_replies {i : Instr} {s t : State} (h : exec i s = .next t) : t.replies = s.replies :=
  (congrArg State.replies (exec_frame h) :)

/-- `SCHED` leaves the rows, every other micro-operation the operand registers. -/
theorem exec_rows_or_ops {i : Instr} {s t : State} (h : exec i s = .next t) : t.rows = s.rows ∨ t.ops = s.ops := by
  rcases exec_cases h with ⟨r, k, hr, -, rfl⟩ | ⟨-, rfl⟩ | ⟨-, rfl⟩ | ⟨-, rfl⟩ | ⟨-, rfl⟩
  · exact .inl rfl
  all_goals exact .inr rfl

/-- Row 1 is written by the mixing steps alone: `SCHED` writes no row, the reorderings write rows 2 to 4. -/
theorem exec_row1 {i : Instr} {s t : State} (h : exec i s = .next t) :
    t.rows.r1l = s.rows.r1l ∧ t.rows.r1h = s.rows.r1h ∨ i = .g1 ∨ i = .g2 := by
  rcases exec_cases h with ⟨r, k, hr, -, rfl⟩ | ⟨hi, -⟩ | ⟨hi, -⟩ | ⟨-, rfl⟩ | ⟨-, rfl⟩
  case inr.inl => exact .inr (.inl hi)
  case inr.inr.inl => exact .inr (.inr hi)
  all_goals exact .inl ⟨rfl, rfl⟩

/-- Settles O17: the frame of a micro-operation, and the two exclusions by its cases. -/
theorem microOperationsKeepControl : Obligations.MicroOperationsKeepControl := fun _ _ _ h =>
  ⟨exec_upc h, exec_busy h, exec_done h, exec_msg h, exec_agenda h, exec_replies h, exec_rows_or_ops h, exec_row1 h⟩

/-! ### The lane operations -/

theorem vadd_comm (x y : VReg) : vadd x y = vadd y x :=
  congrArg₂ VReg.mk (BitVec.add_comm ..) (BitVec.add_comm ..)

theorem vadd_assoc (x y z : VReg) : vadd (vadd x y) z = vadd x (vadd y z) :=
  congrArg₂ VReg.mk (BitVec.add_assoc ..) (BitVec.add_assoc ..)

/-- Settles O18: each clause is the law of the word operation, in both lanes. -/
theorem laneArithmetic : Obligations.LaneArithmetic :=
  ⟨fun _ _ => ⟨BitVec.toNat_add .., BitVec.toNat_add ..⟩, fun x y z => ⟨vadd_comm x y, vadd_assoc x y z⟩,
    fun _ _ _ => ⟨BitVec.getLsbD_xor, BitVec.getLsbD_xor⟩, fun _ _ => rfl⟩

/-! ### A mixing step by position -/

/-- The four words a mixing step leaves at a position are the scalar half step of the four words that stood there. -/
theorem scalarStep_at (p q : RotAmount) (x0 x1 : VReg) (r : Rows) (j : Fin 4) :
    scalarStep p q (r.at 0 j) (r.at 1 j) (r.at 2 j) (r.at 3 j) (operandAt x0 x1 j) =
      ((gstep p q x0 x1 r).at 0 j, (gstep p q x0 x1 r).at 1 j, (gstep p q x0 x1 r).at 2 j,
        (gstep p q x0 x1 r).at 3 j) := by
  simp only [gstep_at]
  rfl

/-- Settles O21: `G1` and `G2` are mixing steps, and those work by position. -/
theorem mixingStepByPosition : Obligations.MixingStepByPosition := fun _ _ =>
  ⟨_, _, rfl, rfl, scalarStep_at .., scalarStep_at ..⟩

/-- A mixing step on given words at a position, by evaluating the scalar half step on them. -/
theorem gstep_at_of_scalarStep {p q : RotAmount} {x0 x1 : VReg} {r : Rows} {j : Fin 4} {a b c d x a' b' c' d' : Word}
    (hstep : scalarStep p q a b c d x = (a', b', c', d')) (ha : r.at 0 j = a) (hb : r.at 1 j = b) (hc : r.at 2 j = c)
    (hd : r.at 3 j = d) (hx : operandAt x0 x1 j = x) :
    (gstep p q x0 x1 r).at 0 j = a' ∧ (gstep p q x0 x1 r).at 3 j = d' ∧
      (gstep p q x0 x1 r).at 2 j = c' ∧ (gstep p q x0 x1 r).at 1 j = b' := by
  have hat := scalarStep_at p q x0 x1 r j
  rw [ha, hb, hc, hd, hx, hstep] at hat
  obtain ⟨rfl, rfl, rfl, rfl⟩ := hat
  exact ⟨rfl, rfl, rfl, rfl⟩

@[simp] theorem rotr64_zero (a : RotAmount) : rotr64 0#64 a = 0#64 := by
  simp [rotr64, shiftCombine]

/-- Zero words at a position stay zero, whatever the amounts. -/
theorem quadStep_zero (p q : RotAmount) (k : Fin 4) : quadStep p q 0 (fun _ => 0) k = 0 := by
  fin_cases k <;> simp [quadStep, scalarStep]

/-- All-zero rows and operands give all-zero rows. -/
theorem gstep_words_zero (p q : RotAmount) {x0 x1 : VReg} {r : Rows} (hr : r.words = Vector.replicate 16 0)
    (h0 : x0 = ⟨0, 0⟩) (h1 : x1 = ⟨0, 0⟩) : (gstep p q x0 x1 r).words = Vector.replicate 16 0 := by
  have hat : ∀ k j : Fin 4, r.at k j = 0 := fun k j => by simp [Rows.at, Rows.word, hr]
  have hop : ∀ j : Fin 4, operandAt x0 x1 j = 0 := fun j => by subst h0 h1; fin_cases j <;> rfl
  refine words_ext_at fun k j => ?_
  calc (gstep p q x0 x1 r).at k j = 0 := by simp only [gstep_at, hat, hop, quadStep_zero]
    _ = (Vector.replicate 16 0)[posIndex k j] := (Vector.getElem_replicate _).symm

/-- Settles O19: `G1` is a mixing step by its definition, and the zero corner and the example go by position. -/
theorem g1IsFirstMixingStep : Obligations.G1IsFirstMixingStep :=
  ⟨by decide, fun _ => ⟨_, rfl, rfl, rfl, rfl, rfl, rfl, rfl, rfl, rfl, rfl, gstep_words_zero .by32 .by24,
    fun _ => gstep_at_of_scalarStep (by decide)⟩⟩

/-- Settles O20: as for `G1`, with the wrap corner besides. -/
theorem g2IsSecondMixingStep : Obligations.G2IsSecondMixingStep :=
  ⟨by decide, fun _ => ⟨_, rfl, rfl, rfl, rfl, rfl, rfl, rfl, rfl, rfl, rfl, gstep_words_zero .by16 .by63,
    fun _ => gstep_at_of_scalarStep (by decide), fun _ => gstep_at_of_scalarStep (by decide)⟩⟩

/-! ### The column phase -/

/-- The four calls of a phase, written out. -/
theorem scalarCalls_finRange (p : Fin 4 → Fin 4 → Fin 16) (x y : Fin 4 → Word) (v : Words) :
    scalarCalls p x y (List.finRange 4) v =
      scalarG (p 0 3) (p 1 3) (p 2 3) (p 3 3) (x 3) (y 3) (scalarG (p 0 2) (p 1 2) (p 2 2) (p 3 2) (x 2) (y 2)
        (scalarG (p 0 1) (p 1 1) (p 2 1) (p 3 1) (x 1) (y 1)
          (scalarG (p 0 0) (p 1 0) (p 2 0) (p 3 0) (x 0) (y 0) v))) := by
  simp only [scalarCalls, show List.finRange 4 = [0, 1, 2, 3] from rfl, List.foldl_cons, List.foldl_nil]

/-- Settles O22: `COLMIX` is both mixing steps with the operands of the column half, and those are four calls of `G` on
the columns. -/
theorem columnPhaseIsFourScalarG : Obligations.ColumnPhaseIsFourScalarG := by
  intro n s
  refine ⟨_, runOps_colmix n s, ?_, rfl⟩
  calc (s.mixed n .column).v = (mixRows (schedOperands n .column s.msg) s.rows).words := rfl
    _ = scalarCalls posIndex _ _ (List.finRange 4) s.v := mixRows_words ..
    _ = _ := scalarCalls_finRange ..

end Sys2Proof.Machine
end

section
/-! SUPPORT. The message scheduler (spec/42_message_schedule.md): what `SCHED` brings to each position (R143), its bytes,
and the rows of `SIGMA` as permutations (R141), from which the claims about the halves of a row follow. -/

namespace Sys2Proof.Machine

/-! ### The operands of `SCHED` -/

theorem exec_sched {r : BitVec 4} (hr : r.toNat < 12) (h : Half) (s : State) :
    exec (.sched r h) s = .next (s.setOps (schedOperands ⟨r.toNat, hr⟩ h s.msg)) := by
  simpa using exec_sched_ofNat ⟨r.toNat, hr⟩ h s

/-- The first-step words are those of the even columns of the half. -/
theorem operandAt_schedOperands_first (n : Fin 12) (h : Half) (m : MsgRegs) (j : Fin 4) :
    operandAt (schedOperands n h m).b0 (schedOperands n h m).b1 j = m.word (sigmaAt n h ⟨2 * j.val, by omega⟩) := by
  fin_cases j <;> rfl

/-- The second-step words are those of the odd columns of the half. -/
theorem operandAt_schedOperands_second (n : Fin 12) (h : Half) (m : MsgRegs) (j : Fin 4) :
    operandAt (schedOperands n h m).b2 (schedOperands n h m).b3 j = m.word (sigmaAt n h ⟨2 * j.val + 1, by omega⟩) := by
  fin_cases j <;> rfl

/-! ### The bytes of `SCHED` -/

theorem wellFormed_sched_ofNat (n : Fin 12) (h : Half) : (Instr.sched (BitVec.ofNat 4 n.val) h).wellFormed = true := by
  rw [Instr.wellFormed, BitVec.toNat_ofNat, Nat.mod_eq_of_lt (by omega), decide_eq_true_iff]
  omega

/-- The `h` bit is worth 16 (spec/30_encoding.md R80). -/
theorem encode_sched_ofNat (n : Fin 12) (h : Half) :
    encode (.sched (BitVec.ofNat 4 n.val) h) = BitVec.ofNat 8 (2 * halfBase h + n.val) := by
  cases h <;> revert n <;> decide

theorem decode_sched_ofNat (n : Fin 12) (h : Half) :
    decode (BitVec.ofNat 8 (2 * halfBase h + n.val)) = .instr (.sched (BitVec.ofNat 4 n.val) h) := by
  rw [← encode_sched_ofNat]
  exact decodeOfEncodeIsInstr _ (wellFormed_sched_ofNat n h)

/-! ### The rows of `SIGMA` -/

/-- No row of `SIGMA` repeats an index. -/
theorem sigma_row_injective (n : Fin 12) : Function.Injective fun c : Fin 16 => sigma[n][c] := by
  revert n; unfold Function.Injective; decide

/-- A row of `SIGMA` permutes the sixteen indices (spec/42_message_schedule.md R141). -/
theorem sigma_row_bijective (n : Fin 12) : Function.Bijective fun c : Fin 16 => sigma[n][c] :=
  Finite.injective_iff_bijective.mp (sigma_row_injective n)

theorem toList_eq_map_finRange {α : Type} {n : Nat} (v : Vector α n) :
    v.toList = (List.finRange n).map fun c => v[c] := by
  rw [← List.ofFn_eq_map, ← Vector.toList_ofFn]
  exact congrArg Vector.toList Vector.ofFn_getElem.symm

theorem sigma_row_perm (n : Fin 12) : sigma[n].toList.Perm (List.finRange 16) := by
  rw [toList_eq_map_finRange]
  exact Equiv.Perm.map_finRange_perm (Equiv.ofBijective _ (sigma_row_bijective n))

/-! ### The halves of a row -/

/-- The column of `SIGMA` of the `k`-th index of a half. -/
def halfColumn (h : Half) (k : Fin 8) : Fin 16 :=
  ⟨halfBase h + k.val, by cases h <;> simp only [halfBase] <;> omega⟩

theorem sigmaAt_eq_comp (n : Fin 12) (h : Half) : sigmaAt n h = (fun c : Fin 16 => sigma[n][c]) ∘ halfColumn h := rfl

theorem halfColumn_injective (h : Half) : Function.Injective (halfColumn h) := fun i j hij => by
  simpa [halfColumn, Fin.ext_iff] using hij

/-- The two halves make up the row. -/
theorem exists_halfColumn (c : Fin 16) : ∃ (h : Half) (k : Fin 8), halfColumn h k = c := by
  by_cases hc : c.val < 8
  · exact ⟨.column, ⟨c.val, hc⟩, Fin.ext (Nat.zero_add _)⟩
  · exact ⟨.diagonal, ⟨c.val - 8, by omega⟩, Fin.ext (Nat.add_sub_cancel' (Nat.le_of_not_lt hc))⟩

theorem sigmaAt_injective (n : Fin 12) (h : Half) : Function.Injective (sigmaAt n h) := by
  rw [sigmaAt_eq_comp]
  exact (sigma_row_injective n).comp (halfColumn_injective h)

/-- The two `SCHED` of a round select every message word. -/
theorem exists_sigmaAt (n : Fin 12) (i : Fin 16) : ∃ (h : Half) (k : Fin 8), sigmaAt n h k = i := by
  obtain ⟨c, rfl⟩ := (sigma_row_bijective n).surjective i
  obtain ⟨h, k, rfl⟩ := exists_halfColumn c
  exact ⟨h, k, congrFun (sigmaAt_eq_comp n h) k⟩

/-- Settles O24: the operands by position, the bytes by the encoder, and the selection by the rows of `SIGMA`, which
are permutations. -/
theorem schedLoadsPermutedWords : Obligations.SchedLoadsPermutedWords :=
  ⟨fun _ h s hr => ⟨_, exec_sched (Nat.lt_succ_of_le hr) h s,
      fun j => ⟨operandAt_schedOperands_first _ h s.msg j, operandAt_schedOperands_second _ h s.msg j⟩, rfl⟩,
    fun n => ⟨by simpa [halfBase] using decode_sched_ofNat n .column, decode_sched_ofNat n .diagonal⟩,
    fun n h => (List.nodup_finRange 8).map (sigmaAt_injective n h), exists_sigmaAt, sigma_row_perm, rfl, rfl⟩

end Sys2Proof.Machine
end

section
/-! SUPPORT. The row reordering (spec/43_row_reorder.md): `DIAG` and `UNDIAG` as turns of each row by itself (R160 to
R162), inverse to each other (R163, R168), and around the mixing steps as the diagonal calls of the scalar `G` (R167). -/

namespace Sys2Proof.Machine

/-! ### The diagonal phase -/

/-- Settles O23: the phase leaves both mixing steps between the two reorderings, and those are four calls of `G` on the
diagonals. -/
theorem diagonalPhaseIsFourScalarG : Obligations.DiagonalPhaseIsFourScalarG := by
  intro n s
  obtain ⟨t, hrun, hrows⟩ := runOps_diagPhase n s
  refine ⟨t, hrun, ?_, runOps_msg hrun⟩
  calc t.v = (undiagRows (mixRows (schedOperands n .diagonal s.msg) (diagRows s.rows))).words :=
        congrArg Rows.words hrows
    _ = scalarCalls diagIndex _ _ (List.finRange 4) s.v := undiagRows_mixRows_diagRows_words ..
    _ = _ := scalarCalls_finRange ..

/-! ### The two micro-operations and their inverse laws -/

theorem exec_diag (s : State) : exec .diag s = .next (s.clobberScratch.setRows (diagRows s.rows)) := rfl

theorem exec_undiag (s : State) : exec .undiag s = .next (s.clobberScratch.setRows (undiagRows s.rows)) := rfl

/-- Row registers with the same word at every position are equal. -/
theorem rows_ext_at {r r' : Rows} (h : ∀ k j : Fin 4, r'.at k j = r.at k j) : r' = r :=
  congrArg Rows.ofWords (words_ext_at h)

/-- Turning each row back undoes the turn (spec/43_row_reorder.md R163). -/
theorem undiagRows_diagRows (r : Rows) : undiagRows (diagRows r) = r :=
  rows_ext_at fun k j => by rw [undiagRows_at, diagRows_at, sub_add_cancel]

/-- The other order (spec/43_row_reorder.md R168). -/
theorem diagRows_undiagRows (r : Rows) : diagRows (undiagRows r) = r :=
  rows_ext_at fun k j => by rw [diagRows_at, undiagRows_at, add_sub_cancel_right]

/-- Settles O27: the rows by position, which at position `j` are diagonal `j` by the index itself, and the inverse law in
the other order. -/
theorem reorderingByPosition : Obligations.ReorderingByPosition := fun s k j =>
  ⟨_, _, exec_diag s, exec_undiag s, diagRows_at s.rows k j, undiagRows_at s.rows k j, diagRows_at s.rows k j,
    _, exec_diag _, diagRows_undiagRows s.rows⟩

/-! ### Rows turned by any amounts -/

section Turned

variable {r r' : Rows} {f : Fin 4 → Fin 4} (h : ∀ k j : Fin 4, r'.at k j = r.at k (j + f k))
include h

/-- Turning the rows moves whole words: their multiset stays. -/
theorem words_perm_of_turned : r'.words.toList.Perm r.words.toList := by
  have byRow : ∀ q : Rows, q.words.toList = (List.finRange 4).flatMap fun k => (List.finRange 4).map (q.at k) :=
    fun _ => rfl
  rw [byRow, byRow]
  refine List.Perm.flatMap_left _ fun k _ => ?_
  have hrow : r'.at k = r.at k ∘ Equiv.addRight (f k) := funext (h k)
  rw [hrow, ← List.map_map]
  exact (Equiv.Perm.map_finRange_perm _).map _

/-- Rows of four equal words each are not changed by a turn. -/
theorem eq_of_turned_of_constant (hc : ∀ k j : Fin 4, r.at k j = r.at k 0) : r' = r :=
  rows_ext_at fun k j => by rw [h, hc, hc k j]

end Turned

/-- `UNDIAG` as a turn by the negative amounts. -/
theorem undiagRows_at_neg (r : Rows) (k j : Fin 4) : (undiagRows r).at k j = r.at k (j + -k) := by
  rw [undiagRows_at, sub_eq_add_neg]

/-- Settles O25: the assignments are the definition's, the multiset and the fixed points hold for every turn, and the
example evaluates on the packed words. -/
theorem diagTurnsRows : Obligations.DiagTurnsRows :=
  ⟨by decide, fun s => ⟨_, exec_diag s, rfl, rfl, words_perm_of_turned (diagRows_at s.rows),
    eq_of_turned_of_constant (diagRows_at s.rows),
    fun hv => congrArg (fun w => (diagRows (Rows.ofWords w)).words) hv⟩⟩

/-- Settles O26: as for `DIAG`, with the negative amounts. -/
theorem undiagTurnsRowsBack : Obligations.UndiagTurnsRowsBack :=
  ⟨by decide, fun s => ⟨_, exec_undiag s, rfl, rfl, words_perm_of_turned (undiagRows_at_neg s.rows),
    eq_of_turned_of_constant (undiagRows_at_neg s.rows),
    fun hv => congrArg (fun w => (undiagRows (Rows.ofWords w)).words) hv⟩⟩

/-! ### Row 1 -/

/-- A reordering is a function on the row registers that leaves row 1 and does not read it (spec/43_row_reorder.md
R164). -/
theorem exec_reorder {i : Instr} (hi : i = .diag ∨ i = .undiag) :
    ∃ f : Rows → Rows, (∀ s, exec i s = .next (s.clobberScratch.setRows (f s.rows))) ∧
      (∀ r, (f r).r1l = r.r1l ∧ (f r).r1h = r.r1h) ∧
      ∀ r x y, f { r with r1l := x, r1h := y } = { f r with r1l := x, r1h := y } := by
  rcases hi with rfl | rfl
  · exact ⟨diagRows, exec_diag, fun _ => ⟨rfl, rfl⟩, fun _ _ _ => rfl⟩
  · exact ⟨undiagRows, exec_undiag, fun _ => ⟨rfl, rfl⟩, fun _ _ _ => rfl⟩

/-- Settles O28: the inverse law on the rows, the frame of every micro-operation, and `exec_reorder` for row 1. -/
theorem inverseLawAndRowOne : Obligations.InverseLawAndRowOne := by
  refine ⟨fun s => ⟨_, _, exec_diag s, exec_undiag _, undiagRows_diagRows s.rows⟩, fun i s t hi h => ?_⟩
  obtain ⟨f, hexec, hrow1, hfree⟩ := exec_reorder hi
  obtain rfl := Host.Outcome.next.inj ((hexec s).symm.trans h)
  obtain ⟨hlow, hhigh⟩ := hrow1 s.rows
  exact ⟨⟨hlow, hhigh, exec_msg h, rfl, exec_busy h, exec_done h⟩, fun x y => ⟨_, hexec _, hfree s.rows x y⟩⟩

end Sys2Proof.Machine
end

section
/-! SUPPORT. The sequencer's step (spec/44_round_driver.md R182 to R184): the micro-operation it runs, where `UPC` goes,
and that control is a matter of control alone. -/

namespace Sys2Proof.Machine

/-! ### The step at each `UPC` -/

/-- Where the sequencer moves, the step is its turn, once its event is off the agenda. -/
theorem step_of_seqMoves {s : State} (h : seqMoves s) : step s = seqTurn (s.setAgenda s.agenda.tail) := by
  rcases h with ha | ⟨rest, ha⟩
  · have hself : s.setAgenda s.agenda.tail = s := by rw [ha, List.tail_nil, ← ha]; rfl
    rw [step_of_empty ha, hself]
  · rw [step_of_event ha, ha, List.tail_cons]
    rfl

/-- The ROM byte at `UPC` 0 to 95 stands for a micro-operation (spec/30_encoding.md R90). -/
theorem fetch_decode_of_le {u : BitVec 7} (hu : u.toNat ≤ 95) : ∃ b i, fetch u = some b ∧ decode b = .instr i := by
  obtain ⟨b, hb, hi⟩ := fetch_decode (Nat.lt_succ_of_le hu)
  rw [BitVec.ofNat_toNat, BitVec.setWidth_eq] at hb
  exact ⟨b, _, hb, hi⟩

/-- `advance` by the number of the ROM entry, after a micro-operation that left `BUSY` = 1. -/
theorem advance_of_busy (u : BitVec 7) {t : State} (hb : t.busy = true) :
    advance u t = if u.toNat = 95 then t.setControl 0 false true else t.setControl (u + 1) true t.done := by
  by_cases hu : u = 95
  · rw [hu, advance_last]
    rfl
  · have hne : u.toNat ≠ 95 := fun h => hu (BitVec.eq_of_toNat_eq h)
    rw [advance_inner t hu, if_neg hne, hb]

/-- Settles O9: the sequencer's turn is `seqStep`, which fetches, executes and advances; the ROM decodes at each of its
addresses; and an idle turn is the identity. -/
theorem stepRunsDecodedInstr : Obligations.StepRunsDecodedInstr := by
  refine ⟨fun s b i t hb hm hrom hi ht => ?_, fun u hu => ?_, fun s hb hm => ?_⟩
  · have htb : t.busy = true := (exec_busy ht).trans hb
    have htd : t.done = s.done := (exec_done ht :)
    have hseq : seqStep (s.setAgenda s.agenda.tail) = .next (advance s.upc t) := seqStep_of hrom hi ht
    rw [step_of_seqMoves hm, seqTurn_busy (by exact hb), hseq, advance_of_busy _ htb, htd]
  · obtain ⟨b, i, hb, hi⟩ := fetch_decode_of_le hu
    exact ⟨b, i, hb, hi, wellFormed_of_decode hi⟩
  · rw [step_of_seqMoves hm, seqTurn_idle (by exact hb)]

/-! ### Where `UPC` goes -/

/-- A sequencer step that has a next state stood at a ROM entry. -/
theorem upc_le_of_seqStep {s t : State} (h : seqStep s = .next t) : s.upc.toNat ≤ 95 := by
  obtain ⟨b, -, -, hb, -⟩ := seqStep_next h
  exact (fetch_isSome_iff s.upc).mp (by rw [hb]; rfl)

/-- Settles O14: by the five kinds of step; an idle turn and a read leave `UPC`. -/
theorem upcMovesOnlyBySequencing : Obligations.UpcMovesOnlyBySequencing := by
  intro s t h hne
  rcases step_cases h with ⟨-, -, rfl⟩ | ⟨hm, hb, hseq⟩ | ⟨a, rest, -, rfl⟩ | ⟨a, d, rest, ha, rfl⟩ | ⟨rest, ha, rfl⟩
  · exact absurd rfl hne
  · rcases seqStep_control hseq with ⟨hl, hu, hb', hd'⟩ | ⟨hl, hu, -, -⟩
    · exact .inr (.inl ⟨hm, hb, congrArg BitVec.toNat hl, hu, hb', hd'⟩)
    · have hle : s.upc.toNat ≤ 95 := (upc_le_of_seqStep hseq :)
      have hlast : s.upc.toNat ≠ 95 := fun h => hl (BitVec.eq_of_toNat_eq h)
      exact .inl ⟨hm, hb, by omega, hu⟩
  · exact absurd rfl hne
  · rcases hwrite_control (s.setAgenda rest) a d with ⟨hu, -, -⟩ | ⟨hb, rfl, hd, hu, -, -⟩
    · exact absurd hu hne
    · exact .inr (.inr (.inl ⟨d, rest, ha, hd, hb, hu⟩))
  · exact .inr (.inr (.inr ⟨rest, ha, rfl⟩))

/-! ### Control from control alone -/

theorem SameControl.symm {s t : State} : SameControl s t → SameControl t s :=
  fun ⟨hu, hb, hd, ha⟩ => ⟨hu.symm, hb.symm, hd.symm, ha.symm⟩

theorem SameControl.trans {s t u : State} : SameControl s t → SameControl t u → SameControl s u :=
  fun ⟨hu, hb, hd, ha⟩ ⟨hu', hb', hd', ha'⟩ => ⟨hu.trans hu', hb.trans hb', hd.trans hd', ha.trans ha'⟩

/-- Two steps that are refused alike, or that both have a next state, with the same control. -/
def SameOutcome (o o' : Host.Outcome State Fault Refusal) : Prop :=
  (∃ s t, o = .next s ∧ o' = .next t ∧ SameControl s t) ∨ ∃ r, o = .refused r ∧ o' = .refused r

theorem sameOutcome_next {s t : State} (h : SameControl s t) : SameOutcome (.next s) (.next t) :=
  .inl ⟨s, t, rfl, rfl, h⟩

/-- Inside the ROM the sequencer step has a next state. -/
theorem seqStep_next_of_le {s : State} (hu : s.upc.toNat ≤ 95) : ∃ t, seqStep s = .next t := by
  obtain ⟨b, i, hb, hi⟩ := fetch_decode_of_le hu
  obtain ⟨t, ht⟩ := exec_next_of_wellFormed (wellFormed_of_decode hi) s
  exact ⟨_, seqStep_of hb hi ht⟩

/-- Outside the ROM the sequencer step is refused (log 10). -/
theorem seqStep_refused {s : State} (hu : ¬s.upc.toNat ≤ 95) : seqStep s = .refused (.noRomEntry s.upc) := by
  have hnone : fetch s.upc = none := by rwa [← fetch_isSome_iff, Option.not_isSome_iff_eq_none] at hu
  rw [seqStep, hnone]

/-- A sequencer step leaves the agenda. -/
theorem seqStep_agenda {s t : State} (h : seqStep s = .next t) : t.agenda = s.agenda := by
  obtain ⟨b, i, u, -, -, hu, rfl⟩ := seqStep_next h
  rw [advance_agenda, exec_agenda hu]

/-- What a sequencer step makes of the control bits is decided by them. -/
theorem SameControl.of_seqStep {s t s' t' : State} (h : SameControl s t) (hs : seqStep s = .next s')
    (ht : seqStep t = .next t') : SameControl s' t' := by
  obtain ⟨hu, hb, hd, ha⟩ := h
  have ha' : s'.agenda = t'.agenda := by rw [seqStep_agenda hs, ha, seqStep_agenda ht]
  rcases seqStep_control hs with ⟨hl, hus, hbs, hds⟩ | ⟨hl, hus, hbs, hds⟩ <;>
    rcases seqStep_control ht with ⟨hl', hut, hbt, hdt⟩ | ⟨hl', hut, hbt, hdt⟩
  · exact ⟨hus.trans hut.symm, hbs.trans hbt.symm, hds.trans hdt.symm, ha'⟩
  · exact absurd (hu ▸ hl) hl'
  · exact absurd (hu ▸ hl') hl
  · exact ⟨by rw [hus, hut, hu], by rw [hbs, hbt, hb], by rw [hds, hdt, hd], ha'⟩

/-- The sequencer's turn on control: the ROM is the same in both states, and it decides what runs. -/
theorem sameOutcome_seqTurn {s t : State} (h : SameControl s t) : SameOutcome (seqTurn s) (seqTurn t) := by
  have ⟨hu, hb, _, _⟩ := h
  cases hbusy : s.busy with
  | false =>
    rw [seqTurn_idle hbusy, seqTurn_idle (hb ▸ hbusy)]
    exact sameOutcome_next h
  | true =>
    rw [seqTurn_busy hbusy, seqTurn_busy (hb ▸ hbusy)]
    by_cases hle : s.upc.toNat ≤ 95
    · obtain ⟨s', hs⟩ := seqStep_next_of_le hle
      obtain ⟨t', ht⟩ := seqStep_next_of_le (hu ▸ hle)
      exact .inl ⟨s', t', hs, ht, h.of_seqStep hs ht⟩
    · exact .inr ⟨_, seqStep_refused hle, by rw [seqStep_refused (hu ▸ hle), hu]⟩

/-- A write that is no accepted `START` leaves control. -/
theorem sameControl_hwrite_self {s : State} {a : HostAddr} {d : Word}
    (h : ¬(s.busy = false ∧ a = 0x20 ∧ d.getLsbD 0 = true)) : SameControl (hwrite s a d) s := by
  rcases hwrite_cases s a d with hw | ⟨-, i, -, hw⟩ | ⟨-, i, -, hw⟩ | ⟨hb, ha, hd, -⟩
  case inr.inr.inr => exact absurd ⟨hb, ha, hd⟩ h
  all_goals rw [hw]; exact ⟨rfl, rfl, rfl, rfl⟩

/-- A host write on control: `START` is accepted or dropped in both states. -/
theorem SameControl.hwrite {s t : State} (h : SameControl s t) (a : HostAddr) (d : Word) :
    SameControl (hwrite s a d) (hwrite t a d) := by
  have ⟨_, hb, _, ha⟩ := h
  by_cases hstart : s.busy = false ∧ a = 0x20 ∧ d.getLsbD 0 = true
  · obtain ⟨hbs, rfl, hd⟩ := hstart
    rw [hwrite_start hbs hd, hwrite_start (hb ▸ hbs) hd]
    exact ⟨rfl, rfl, rfl, ha⟩
  · exact (sameControl_hwrite_self hstart).trans (h.trans (sameControl_hwrite_self (hb ▸ hstart)).symm)

/-- One event on control. -/
theorem sameOutcome_eventTurn {s t : State} (h : SameControl s t) (e : Event) :
    SameOutcome (eventTurn e s) (eventTurn e t) := by
  cases e with
  | sequencer => exact sameOutcome_seqTurn h
  | host c =>
    cases c with
    | read a => exact sameOutcome_next h
    | write a d => exact sameOutcome_next (h.hwrite a d)
  | reset =>
    obtain ⟨-, -, -, ha⟩ := h
    exact sameOutcome_next ⟨rfl, rfl, rfl, ha⟩

/-- One step on control: the agendas agree, so the same agent moves. -/
theorem sameOutcome_step {s t : State} (h : SameControl s t) : SameOutcome (step s) (step t) := by
  have ⟨hu, hb, hd, ha⟩ := h
  cases hs : s.agenda with
  | nil =>
    rw [step_of_empty hs, step_of_empty (ha ▸ hs)]
    exact sameOutcome_seqTurn h
  | cons e rest =>
    rw [step_of_event hs, step_of_event (ha ▸ hs)]
    exact sameOutcome_eventTurn (s := s.setAgenda rest) (t := t.setAgenda rest) ⟨hu, hb, hd, rfl⟩ e

end Sys2Proof.Machine
end

section
/-! SUPPORT. The whole invocation (spec/44_round_driver.md R183, R185 to R187): the control bits at each boundary, what
the 96 steps leave, and `COMPRESS` as a bijection of the working state. -/

namespace Sys2Proof.Machine

/-! ### The boundaries of an invocation -/

section Invocation

variable {s : State} (hb : s.busy = true) (hu : s.upc = 0) (ha : s.agenda = [])
include hb hu ha

/-- After `k` steps of an invocation `UPC` is `k` (spec/44_round_driver.md R183). -/
theorem runSteps_running {k : Nat} (hk : k < 96) :
    ∃ t, runSteps k s = .next t ∧ t.busy = true ∧ t.upc.toNat = k ∧ t.done = s.done := by
  have hwf : ∀ i ∈ compressOps.take k, i.wellFormed = true :=
    fun i hi => wellFormed_of_mem_compressOps i (List.mem_of_mem_take hi)
  obtain ⟨u, hrun⟩ := runOps_next_of_wellFormed hwf s
  have hsteps : runSteps k s = .next (u.setControl (BitVec.ofNat 7 k) true s.done) := by
    rw [runSteps_of_runOps hk.le hb hu ha hrun, u.atBoundary_of_lt hk]
  exact ⟨_, hsteps, rfl, Nat.mod_eq_of_lt (by omega), rfl⟩

/-- The 96 steps of an invocation are the micro-operations of `COMPRESS`, and then the completion. -/
theorem runSteps_invocation :
    ∃ u, runOps compressOps s = .next u ∧ runSteps 96 s = .next (u.setControl 0 false true) ∧
      u.v = scalarCompress s.v s.m := by
  obtain ⟨u, hrun, hv⟩ := runOps_compressOps s
  exact ⟨u, hrun, runSteps_of_runOps (k := 96) le_rfl hb hu ha hrun, hv⟩

end Invocation

/-- Settles O13: `sameOutcome_step` for one step; and at step `n` of an invocation `UPC` is `n`. -/
theorem controlIgnoresData : Obligations.ControlIgnoresData := by
  refine ⟨fun s t h => ?_, fun s n hb hu ha hn => ?_⟩
  · rcases sameOutcome_step h with ⟨s', t', hs, ht, h'⟩ | ⟨r, hs, ht⟩
    · rw [hs, ht]
      exact ⟨fun _ hx => ⟨t', rfl, Host.Outcome.next.inj hx ▸ h'⟩, fun _ hr => nomatch hr⟩
    · rw [hs, ht]
      exact ⟨fun _ hx => (nomatch hx), fun _ hr => hr⟩
  · obtain ⟨t, hrun, -, hupc, -⟩ := runSteps_running hb hu ha hn
    exact ⟨t, hrun, by rw [fetch, hupc]⟩

/-! ### What the 96 steps leave -/

/-- What every micro-operation leaves, a list of them leaves. -/
theorem runOps_keeps {α : Type} {f : State → α} (hf : ∀ {i s t}, exec i s = .next t → f t = f s) {is : List Instr}
    {s t : State} (h : runOps is s = .next t) : f t = f s := by
  induction is generalizing s with
  | nil => cases h; rfl
  | cons i is ih =>
    obtain ⟨v, hv, his⟩ := runOps_cons_next h
    rw [ih his, hf hv]

/-- Settles O45: the 96 micro-operations by rounds, and each round as a round of the scalar program. -/
theorem compressEqualsScalarReference : Obligations.CompressEqualsScalarReference :=
  compress_eq_scalarCompress

/-- Settles O44: the boundaries by `runSteps_running`; the 96 steps run the micro-operations of `COMPRESS`, which
compute the scalar program from every state, whatever the hidden registers hold. -/
theorem invocationComputesCompress : Obligations.InvocationComputesCompress := by
  intro s hb hu ha
  obtain ⟨u, hrun, hsteps, hv⟩ := runSteps_invocation hb hu ha
  have hcompress : some u.v = compress s.v s.m := by rw [hv, compress_eq_scalarCompress]
  have hagenda : u.agenda = [] := (runOps_keeps exec_agenda hrun).trans ha
  have hreplies : u.replies = s.replies := runOps_keeps exec_replies hrun
  exact ⟨fun k => runSteps_running hb hu ha,
    _, hsteps, rfl, rfl, rfl, hcompress, (runOps_msg hrun :), hagenda, hreplies⟩

/-- The row registers are decided by the words in them. -/
theorem Rows.words_injective : Function.Injective Rows.words :=
  Function.LeftInverse.injective rows_ofWords_words

/-- Settles O48: both invocations leave the scalar program's result of the same words. -/
theorem invocationIgnoresHiddenState : Obligations.InvocationIgnoresHiddenState := by
  intro s u hbs hus has hbu huu hau ⟨hrows, hmsg⟩
  obtain ⟨s', hrun, hsteps, hv⟩ := runSteps_invocation hbs hus has
  obtain ⟨u', hrun', hsteps', hv'⟩ := runSteps_invocation hbu huu hau
  have hwords : s'.v = u'.v := by rw [hv, hv', State.v, State.m, hrows, hmsg]; rfl
  have hmsg' : s'.msg = u'.msg := by rw [runOps_msg hrun, runOps_msg hrun', hmsg]
  exact ⟨_, _, hsteps, hsteps', Rows.words_injective hwords, hmsg'⟩

/-! ### `COMPRESS` as a bijection -/

/-- A write of one word leaves the others. -/
theorem set_getElem_of_ne (v : Words) {i k : Fin 16} (hik : i ≠ k) (x : Word) : (v.set i x)[k] = v[k] :=
  Vector.getElem_set_ne _ _ (Fin.val_ne_of_ne hik)

/-- A word replaced by a bijective function of itself, which may look at one other word, can be recovered. -/
theorem set_bijective {i j : Fin 16} (hij : i ≠ j) {f : Word → Word → Word} (hf : ∀ y, (f y).Bijective) :
    Function.Bijective fun v : Words => v.set i (f v[j] v[i]) := by
  constructor
  · intro v w (hvw : v.set i (f v[j] v[i]) = w.set i (f w[j] w[i]))
    have hne : ∀ k : Fin 16, i ≠ k → v[k] = w[k] := fun k hik => by
      rw [← set_getElem_of_ne v hik (f v[j] v[i]), hvw, set_getElem_of_ne w hik]
    have hnew : f v[j] v[i] = f w[j] w[i] := by simpa using congrArg (·[i]) hvw
    rw [hne j hij] at hnew
    have hall : ∀ k : Fin 16, v[k] = w[k] := fun k =>
      if hik : i = k then hik ▸ (hf w[j]).injective hnew else hne k hik
    exact Vector.ext fun k hlt => hall ⟨k, hlt⟩
  · intro w
    obtain ⟨x, hx⟩ := (hf w[j]).surjective w[i]
    refine ⟨w.set i x, ?_⟩
    have hi : (w.set i x)[i] = x := Vector.getElem_set_self _
    simp only [hi, set_getElem_of_ne w hij, hx, Vector.set_set]
    exact Vector.set_getElem_self _

/-- What a line of `G` does to the word `d` or `b`. -/
theorem rotr64_xor_bijective (a : RotAmount) (y : Word) : Function.Bijective fun w : Word => rotr64 (w ^^^ y) a := by
  have hxor : Function.Involutive fun w : Word => w ^^^ y := fun w =>
    (BitVec.xor_assoc w y y).trans (by rw [BitVec.xor_self, BitVec.xor_zero])
  exact (shiftCombine_bijective a.bits_range.1 a.bits_range.2).comp hxor.bijective

/-- Half of `G` on four different indices is a bijection: each of its lines replaces a word reversibly. -/
theorem scalarHalf_bijective (p q : RotAmount) {f : Fin 4 → Fin 16} (hf : f.Injective) (x : Word) :
    Function.Bijective (scalarHalf p q (f 0) (f 1) (f 2) (f 3) x) := by
  have hne : ∀ {k l : Fin 4}, k ≠ l → f k ≠ f l := fun hkl he => hkl (hf he)
  have hadd : ∀ y : Word, Function.Bijective fun w : Word => w + y := fun y => (Equiv.addRight y).bijective
  have hadd₂ : ∀ y : Word, Function.Bijective fun w : Word => w + y + x := fun y => (hadd x).comp (hadd y)
  have ha := set_bijective (hne (k := 0) (l := 1) (by decide)) hadd₂
  have hd := set_bijective (hne (k := 3) (l := 0) (by decide)) (rotr64_xor_bijective p)
  have hc := set_bijective (hne (k := 2) (l := 3) (by decide)) hadd
  have hb := set_bijective (hne (k := 1) (l := 2) (by decide)) (rotr64_xor_bijective q)
  exact hb.comp (hc.comp (hd.comp ha))

/-- `G` on four different indices is a bijection. -/
theorem scalarG_bijective {f : Fin 4 → Fin 16} (hf : f.Injective) (x y : Word) :
    Function.Bijective (scalarG (f 0) (f 1) (f 2) (f 3) x y) :=
  (scalarHalf_bijective .by16 .by63 hf y).comp (scalarHalf_bijective .by32 .by24 hf x)

/-- Bijections one after the other are a bijection. -/
theorem foldl_bijective {α β : Type} {f : α → β → α} (hf : ∀ b, Function.Bijective (f · b)) (l : List β) :
    Function.Bijective fun a => l.foldl f a := by
  induction l with
  | nil => exact Function.bijective_id
  | cons b l ih => exact ih.comp (hf b)

/-- Calls of `G`, each on four different indices, are a bijection. -/
theorem scalarCalls_bijective {p : Fin 4 → Fin 4 → Fin 16} (hp : Function.Injective2 p) (x y : Fin 4 → Word)
    (l : List (Fin 4)) : Function.Bijective (scalarCalls p x y l) :=
  foldl_bijective (fun j => scalarG_bijective (f := (p · j)) (fun _ _ he => (hp he).1) (x j) (y j)) l

/-- Calls of `G` on the columns, then on the diagonals, are a bijection. -/
theorem phases_bijective (x y x' y' : Fin 4 → Word) (l : List (Fin 4)) :
    Function.Bijective fun v => scalarCalls diagIndex x' y' l (scalarCalls posIndex x y l v) :=
  (scalarCalls_bijective diagIndex_injective2 x' y' l).comp (scalarCalls_bijective posIndex_injective2 x y l)

/-- A round of the scalar program is a bijection. -/
theorem scalarRound_bijective (m : Words) (n : Fin 12) : Function.Bijective (scalarRound m · n) := by
  have hcalls := scalarRound_eq_calls n (MsgRegs.ofWords m)
  rw [msg_words_ofWords] at hcalls
  rw [funext hcalls]
  exact phases_bijective ..

/-- Half of `G` takes zero words with a zero message word to zero words. -/
theorem scalarHalf_zero (p q : RotAmount) (a b c d : Fin 16) :
    scalarHalf p q a b c d 0#64 (Vector.replicate 16 0#64) = Vector.replicate 16 0#64 := by
  simp [scalarHalf]

/-- A round takes zero words with a zero message to zero words. -/
theorem scalarRound_zero (n : Fin 12) :
    scalarRound (Vector.replicate 16 0) (Vector.replicate 16 0) n = Vector.replicate 16 0 := by
  simp [scalarRound, scalarG_eq_halves, scalarHalf_zero]

/-- Settles O46: `COMPRESS` is twelve rounds, each a bijection that keeps zero. -/
theorem compressIsBijective : Obligations.CompressIsBijective := by
  refine ⟨fun m w => ?_, ?_⟩
  · simp only [compress_eq_scalarCompress, Option.some.injEq]
    exact (foldl_bijective (scalarRound_bijective m) _).existsUnique w
  · rw [compress_eq_scalarCompress, scalarCompress, List.foldl_fixed' scalarRound_zero]

end Sys2Proof.Machine
end

section
/-! SUPPORT. The host's commands (spec/45_host_commands.md): `START` (R211), what moves `DONE` (R212), and the invocation
protocol (R213) from its parts, which are loading, waiting and reading. -/

namespace Sys2Proof.Machine

/-! ### `START` and `DONE` -/

/-- A step that performs an accepted `START`. -/
theorem step_start {s : State} {d : Word} {rest : List Event} (ha : s.agenda = .host (.write 0x20 d) :: rest)
    (hd : d.getLsbD 0 = true) (hb : s.busy = false) : step s = .next ((s.setAgenda rest).setControl 0 true false) :=
  (step_write ha).trans (congrArg _ (hwrite_start hb hd))

/-- Settles O39: accepted it is `step_start`, and with `BUSY` = 1 it is a dropped write. -/
theorem startBeginsAnInvocation : Obligations.StartBeginsAnInvocation := fun s d rest ha hd =>
  ⟨step_start ha hd, fun hb => (step_write ha).trans (congrArg _ (hwrite_busy (s := s.setAgenda rest) hb 0x20 d))⟩

/-- Everything a step can do to `DONE`: leave it, complete, begin an invocation, reset. -/
theorem step_done_cases {s t : State} (h : step s = .next t) :
    t.done = s.done ∨
    (seqMoves s ∧ s.busy = true ∧ s.upc = 95 ∧ t.busy = false ∧ t.done = true) ∨
    (∃ d rest, s.agenda = .host (.write 0x20 d) :: rest ∧ d.getLsbD 0 = true ∧ s.busy = false ∧ t.done = false) ∨
    (∃ rest, s.agenda = .reset :: rest ∧ t.done = false) := by
  rcases step_cases h with ⟨-, -, rfl⟩ | ⟨hm, hb, hseq⟩ | ⟨a, rest, -, rfl⟩ | ⟨a, d, rest, ha, rfl⟩ | ⟨rest, ha, rfl⟩
  · exact .inl rfl
  · rcases seqStep_control hseq with ⟨hl, -, hb', hd'⟩ | ⟨-, -, -, hd'⟩
    · exact .inr (.inl ⟨hm, hb, hl, hb', hd'⟩)
    · exact .inl hd'
  · exact .inl rfl
  · rcases hwrite_control (s.setAgenda rest) a d with ⟨-, -, hd'⟩ | ⟨hb, rfl, hd, -, -, hd'⟩
    · exact .inl hd'
    · exact .inr (.inr (.inl ⟨d, rest, ha, hd, hb, hd'⟩))
  · exact .inr (.inr (.inr ⟨rest, ha, rfl⟩))

/-- Settles O15: by `step_done_cases`; and the sequencer's step at the last ROM entry is the completion. -/
theorem doneIsStickyUntilStartOrReset : Obligations.DoneIsStickyUntilStartOrReset := by
  refine ⟨fun s t h hs ht => ?_, fun s t h hs ht => ?_, fun s t h hm hb hu => ?_, fun _ => rfl⟩
  · rcases step_done_cases h with hd | ⟨hm, hb, hl, hb', -⟩ | ⟨-, -, -, -, -, hd⟩ | ⟨-, -, hd⟩
    · simp [hs, ht] at hd
    · rw [hl]
      exact ⟨hm, hb, rfl, rfl, hb'⟩
    all_goals simp [ht] at hd
  · rcases step_done_cases h with hd | ⟨-, -, -, -, hd⟩ | ⟨d, rest, ha, hd, hb, -⟩ | ⟨rest, ha, -⟩
    · simp [hs, ht] at hd
    · simp [ht] at hd
    · exact .inl ⟨d, rest, ha, hd, hb⟩
    · exact .inr ⟨rest, ha⟩
  · rw [step_of_seqMoves hm, seqTurn_busy (by exact hb)] at h
    rcases seqStep_control h with ⟨-, -, hb', hd'⟩ | ⟨hl, -⟩
    · exact ⟨hb', hd'⟩
    · exact absurd (BitVec.eq_of_toNat_eq hu) hl

/-! ### Steps 2 and 3 of the protocol: loading -/

/-- A write that brings a word of `u`'s window makes that word agree with `u`'s, and no other disagree. -/
theorem step_copy (u : State) {a : HostAddr} {rest : List Event} {s : State} (hlt : a.toNat < 0x20)
    (hb : s.busy = false) (ha : s.agenda = .host (.write a (hread u a)) :: rest) :
    ∃ t, step s = .next t ∧ t.busy = false ∧ t.agenda = rest ∧ t.replies = s.replies ∧
      ∀ b, b = a ∨ hread s b = hread u b → hread t b = hread u b := by
  have hne : ¬(a = 0x20 ∧ (hread u a).getLsbD 0 = true) := fun ⟨h, _⟩ => absurd (h ▸ hlt) (by decide)
  have hframe := hwrite_frame_of_not_start (s.setAgenda rest) hne
  refine ⟨_, step_write ha, by rw [hframe]; exact hb, by rw [hframe]; rfl, hwrite_replies .., fun b h => ?_⟩
  rw [writeThenRead (s.setAgenda rest) a b (hread u a) hb hlt]
  split_ifs with hba
  · rw [hba]
  · exact h.resolve_left hba

/-- Writes that each bring a word of `u`'s window, in whatever order: the words written agree with `u`'s, and so do
those that did before. -/
theorem runSteps_copy (u : State) {load rest : List Event}
    (hload : ∀ e ∈ load, ∃ a : HostAddr, a.toNat < 0x20 ∧ e = .host (.write a (hread u a))) {s : State}
    (hb : s.busy = false) (ha : s.agenda = load ++ rest) :
    ∃ t, runSteps load.length s = .next t ∧ t.busy = false ∧ t.agenda = rest ∧ t.replies = s.replies ∧
      ∀ b, .host (.write b (hread u b)) ∈ load ∨ hread s b = hread u b → hread t b = hread u b := by
  induction load generalizing s with
  | nil => exact ⟨s, rfl, hb, ha, rfl, fun b h => h.resolve_left List.not_mem_nil⟩
  | cons e load ih =>
    obtain ⟨⟨a, hlt, rfl⟩, htail⟩ := List.forall_mem_cons.mp hload
    obtain ⟨s', hstep, hb', ha', hq', hs'⟩ := step_copy u hlt hb ha
    obtain ⟨t, hrun, hbt, hat, hqt, ht⟩ := ih htail hb' ha'
    refine ⟨t, (runSteps_succ hstep).trans hrun, hbt, hat, hqt.trans hq', fun b h => ht b ?_⟩
    rcases h with hmem | hold
    · rcases List.mem_cons.mp hmem with hhead | hmem
      · injection hhead with hcmd
        injection hcmd with hba
        exact .inr (hs' b (.inl hba))
      · exact .inl hmem
    · exact .inr (hs' b (.inr hold))

theorem vAddr_lt : ∀ i : Fin 16, (BitVec.ofNat 6 i.val).toNat < 0x20 := by decide

theorem msgAddr_lt : ∀ i : Fin 16, (BitVec.ofNat 6 (0x10 + i.val)).toNat < 0x20 := by decide

/-- The window of a loaded machine at the `V` addresses. -/
theorem hread_loaded_v (v m : Words) (i : Fin 16) : hread (loaded v m) (BitVec.ofNat 6 i.val) = v[i] := by
  rw [hread_v]
  exact congrArg (·[i]) (rows_words_ofWords v)

/-- The window of a loaded machine at the `MSG` addresses. -/
theorem hread_loaded_msg (v m : Words) (i : Fin 16) : hread (loaded v m) (BitVec.ofNat 6 (0x10 + i.val)) = m[i] := by
  rw [hread_msg]
  exact congrArg (·[i]) (msg_words_ofWords m)

/-- The events of step 3 are the writes of a loaded machine's `V` words. -/
theorem mem_loadState_iff (v m : Words) (e : Event) : e ∈ loadState v ↔
    ∃ i : Fin 16, e = .host (.write (BitVec.ofNat 6 i.val) (hread (loaded v m) (BitVec.ofNat 6 i.val))) := by
  simp only [loadState, List.mem_map, List.mem_finRange, true_and, hread_loaded_v, eq_comm]

/-- The events of step 2 are the writes of a loaded machine's `MSG` words. -/
theorem mem_loadMsg_iff (v m : Words) (e : Event) : e ∈ loadMsg m ↔
    ∃ i : Fin 16,
      e = .host (.write (BitVec.ofNat 6 (0x10 + i.val)) (hread (loaded v m) (BitVec.ofNat 6 (0x10 + i.val)))) := by
  simp only [loadMsg, List.mem_map, List.mem_finRange, true_and, hread_loaded_msg, eq_comm]

/-- The working state is what the window shows at the `V` addresses. -/
theorem v_eq_of_hread {s : State} {v : Words} (h : ∀ i : Fin 16, hread s (BitVec.ofNat 6 i.val) = v[i]) : s.v = v :=
  Vector.ext fun i hi => (hread_v s ⟨i, hi⟩).symm.trans (h ⟨i, hi⟩)

/-- The message block is what the window shows at the `MSG` addresses. -/
theorem m_eq_of_hread {s : State} {m : Words} (h : ∀ i : Fin 16, hread s (BitVec.ofNat 6 (0x10 + i.val)) = m[i]) :
    s.m = m :=
  Vector.ext fun i hi => (hread_msg s ⟨i, hi⟩).symm.trans (h ⟨i, hi⟩)

/-- Loading, in any order, with the message left out where `MSG` holds it already (spec/45_host_commands.md R213). -/
theorem runSteps_load {v m : Words} {load rest : List Event} {s : State} (hb : s.busy = false)
    (hload : load.Perm (loadMsg m ++ loadState v) ∨ (s.m = m ∧ load.Perm (loadState v)))
    (ha : s.agenda = load ++ rest) :
    ∃ t, runSteps load.length s = .next t ∧ t.busy = false ∧ t.agenda = rest ∧ t.replies = s.replies ∧
      t.v = v ∧ t.m = m := by
  have hmem : ∀ e, e ∈ load → e ∈ loadMsg m ∨ e ∈ loadState v := fun e he =>
    hload.elim (fun hp => List.mem_append.mp (hp.mem_iff.mp he)) fun ⟨_, hp⟩ => .inr (hp.mem_iff.mp he)
  have hstate : ∀ e, e ∈ loadState v → e ∈ load := fun e he =>
    hload.elim (fun hp => hp.mem_iff.mpr (List.mem_append_right _ he)) fun ⟨_, hp⟩ => hp.mem_iff.mpr he
  have hmsg : (∀ e, e ∈ loadMsg m → e ∈ load) ∨ s.m = m :=
    hload.imp (fun hp e he => hp.mem_iff.mpr (List.mem_append_left _ he)) And.left
  have hwrites : ∀ e ∈ load, ∃ a : HostAddr, a.toNat < 0x20 ∧ e = .host (.write a (hread (loaded v m) a)) := by
    intro e he
    rcases hmem e he with he | he
    · obtain ⟨i, rfl⟩ := (mem_loadMsg_iff v m e).mp he
      exact ⟨_, msgAddr_lt i, rfl⟩
    · obtain ⟨i, rfl⟩ := (mem_loadState_iff v m e).mp he
      exact ⟨_, vAddr_lt i, rfl⟩
  obtain ⟨t, hrun, hbt, hat, hqt, ht⟩ := runSteps_copy (loaded v m) hwrites hb ha
  refine ⟨t, hrun, hbt, hat, hqt, v_eq_of_hread fun i => ?_, m_eq_of_hread fun i => ?_⟩
  · rw [ht _ (.inl (hstate _ ((mem_loadState_iff v m _).mpr ⟨i, rfl⟩))), hread_loaded_v]
  · have hword : hread t (BitVec.ofNat 6 (0x10 + i.val)) = hread (loaded v m) (BitVec.ofNat 6 (0x10 + i.val)) :=
      ht _ (hmsg.imp (fun h => h _ ((mem_loadMsg_iff v m _).mpr ⟨i, rfl⟩)) fun h => by
        rw [hread_loaded_msg, hread_msg, ← h]
        rfl)
    rw [hword, hread_loaded_msg]

/-! ### Step 5 of the protocol: waiting -/

/-- Between the two states the host has received replies to polls and nothing else. -/
def OnlyPolled (s t : State) : Prop := ∃ polls, t.replies = s.replies ++ polls ∧ ∀ q ∈ polls, q.addr = 0x21

theorem OnlyPolled.of_eq {s t : State} (h : t.replies = s.replies) : OnlyPolled s t :=
  ⟨[], by rw [h, List.append_nil], List.forall_mem_nil _⟩

theorem OnlyPolled.trans {s t u : State} : OnlyPolled s t → OnlyPolled t u → OnlyPolled s u :=
  fun ⟨p, ht, hp⟩ ⟨q, hu, hq⟩ =>
    ⟨p ++ q, by rw [hu, ht, List.append_assoc], List.forall_mem_append.mpr ⟨hp, hq⟩⟩

/-- A sequencer step hands the host no value. -/
theorem seqStep_replies {s t : State} (h : seqStep s = .next t) : t.replies = s.replies := by
  obtain ⟨b, i, u, -, -, hu, rfl⟩ := seqStep_next h
  rw [advance_replies, exec_replies hu]

/-- What the protocol lets happen while it waits: the sequencer's turn and a poll. -/
theorem waiting_iff (e : Event) : e.waiting = true ↔ e = .sequencer ∨ e = pollCmd := by
  unfold Event.waiting pollCmd
  split <;> simp

/-- A step of the waiting host's agenda takes its event off and hands the host the reply to a poll or nothing. -/
theorem step_waiting {s t : State} {e : Event} {rest : List Event} (he : e.waiting = true) (ha : s.agenda = e :: rest)
    (h : step s = .next t) : t.agenda = rest ∧ OnlyPolled s t := by
  rcases (waiting_iff e).mp he with rfl | rfl
  · rw [step_of_seqMoves (.inr ⟨rest, ha⟩), ha, List.tail_cons] at h
    cases hb : s.busy with
    | false =>
      rw [seqTurn_idle (by exact hb)] at h
      cases h
      exact ⟨rfl, .of_eq rfl⟩
    | true =>
      rw [seqTurn_busy (by exact hb)] at h
      exact ⟨seqStep_agenda h, .of_eq (seqStep_replies h :)⟩
  · rw [step_read ha] at h
    cases h
    exact ⟨rfl, _, rfl, by simp [Config.statusAddr]⟩

/-- A run that has a next state took its first step and then the others. -/
theorem runSteps_succ_next {k : Nat} {s u : State} (h : runSteps (k + 1) s = .next u) :
    ∃ t, step s = .next t ∧ runSteps k t = .next u := by
  cases ht : step s with
  | next t => exact ⟨t, rfl, by rwa [runSteps_succ ht] at h⟩
  | fault f => cases f
  | refused r => simp [runSteps, ht] at h

/-- While it waits the host receives replies to polls only. -/
theorem runSteps_waiting {wait rest : List Event} (hwait : ∀ e ∈ wait, e.waiting = true) {s t : State}
    (ha : s.agenda = wait ++ rest) (h : runSteps wait.length s = .next t) : OnlyPolled s t := by
  induction wait generalizing s with
  | nil =>
    cases h
    exact .of_eq rfl
  | cons e wait ih =>
    obtain ⟨he, hwait⟩ := List.forall_mem_cons.mp hwait
    obtain ⟨u, hstep, hrun⟩ := runSteps_succ_next h
    obtain ⟨hau, hpolled⟩ := step_waiting he ha hstep
    exact hpolled.trans (ih hwait hau hrun)

/-- After the completion waiting leaves the core. -/
theorem runSteps_waiting_idle {wait rest : List Event} (hwait : ∀ e ∈ wait, e.waiting = true) {s : State}
    (hb : s.busy = false) (ha : s.agenda = wait ++ rest) :
    ∃ q, runSteps wait.length s = .next (s.setHost rest q) := by
  induction wait generalizing s with
  | nil =>
    rw [List.nil_append] at ha
    exact ⟨s.replies, by rw [← ha, State.setHost_self]; rfl⟩
  | cons e wait ih =>
    obtain ⟨he, hwait⟩ := List.forall_mem_cons.mp hwait
    have hstep : ∃ q, step s = .next (s.setHost (wait ++ rest) q) := by
      rcases (waiting_iff e).mp he with rfl | rfl
      · exact ⟨s.replies, (step_of_event ha).trans (seqTurn_idle hb)⟩
      · exact ⟨_, step_read ha⟩
    obtain ⟨q, hstep⟩ := hstep
    obtain ⟨q', hrun⟩ := ih hwait (s := s.setHost (wait ++ rest) q) hb rfl
    exact ⟨q', (runSteps_succ hstep).trans hrun⟩

/-- A list with more than `n` occurrences of `a`, cut at the one that has `n` before it. -/
theorem exists_split_of_lt_count {α : Type} [DecidableEq α] {a : α} {l : List α} {n : Nat} (h : n < l.count a) :
    ∃ p q, l = p ++ a :: q ∧ p.count a = n := by
  induction l generalizing n with
  | nil => simp at h
  | cons b l ih =>
    by_cases hba : b = a
    · subst hba
      cases n with
      | zero => exact ⟨[], l, rfl, rfl⟩
      | succ n =>
        obtain ⟨p, q, rfl, hp⟩ := ih (n := n) (by simpa using h)
        exact ⟨b :: p, q, rfl, by simp [hp]⟩
    · obtain ⟨p, q, rfl, hp⟩ := ih (n := n) (by simpa [hba] using h)
      exact ⟨b :: p, q, rfl, by simp [hba, hp]⟩

/-! ### Steps 4 and 5 of the protocol: one invocation -/

/-- What an invocation begun in `s` leaves in `t`, as the host can see it: the result in `V`, the message, `STATUS`. -/
def Compressed (s t : State) : Prop :=
  compress s.v s.m = some t.v ∧ t.m = s.m ∧ t.busy = false ∧ t.done = true

/-- A wait that holds the sequencer's 96 turns ends with the result (spec/45_host_commands.md R213). -/
theorem runSteps_wait {wait rest : List Event} (hwait : ∀ e ∈ wait, e.waiting = true)
    (hcount : 96 ≤ wait.count .sequencer) {s : State} (hb : s.busy = true) (hu : s.upc = 0)
    (ha : s.agenda = wait ++ rest) :
    ∃ t, runSteps wait.length s = .next t ∧ Compressed s t ∧ t.agenda = rest ∧ OnlyPolled s t := by
  obtain ⟨p, q, rfl, hp⟩ := exists_split_of_lt_count hcount
  obtain ⟨hwp, -, hwq⟩ : (∀ e ∈ p, e.waiting = true) ∧ _ ∧ ∀ e ∈ q, e.waiting = true := by
    simpa [or_imp, forall_and] using hwait
  have hnr : ∀ e ∈ p, e.notReset = true := fun e he => by
    rcases (waiting_iff e).mp (hwp e he) with rfl | rfl <;> rfl
  obtain ⟨u, hrun, hv, hmsg, hbu, hdu, -, hau⟩ :=
    hostCannotDisturbInvocation s p (q ++ rest) hb hu hnr hp (by rw [ha, List.append_assoc, List.cons_append])
  obtain ⟨r, hidle⟩ := runSteps_waiting_idle hwq hbu hau
  have hall : runSteps (p ++ .sequencer :: q).length s = .next (u.setHost rest r) := by
    have hlen : (p ++ Event.sequencer :: q).length = (p.length + 1) + q.length := by
      rw [List.length_append, List.length_cons]; omega
    rw [hlen, runSteps_add hrun, hidle]
  exact ⟨_, hall, ⟨hv.symm, congrArg MsgRegs.words hmsg, hbu, hdu⟩, rfl, runSteps_waiting hwait ha hall⟩

/-- `START` and a wait that holds the sequencer's 96 turns (spec/45_host_commands.md R211, R213). -/
theorem runSteps_start_wait {wait rest : List Event} (hwait : ∀ e ∈ wait, e.waiting = true)
    (hcount : 96 ≤ wait.count .sequencer) {s : State} (hb : s.busy = false)
    (ha : s.agenda = startCmd :: (wait ++ rest)) :
    ∃ t, runSteps (wait.length + 1) s = .next t ∧ Compressed s t ∧ t.agenda = rest ∧ OnlyPolled s t := by
  obtain ⟨t, hrun, ht⟩ := runSteps_wait hwait hcount (s := (s.setAgenda (wait ++ rest)).setControl 0 true false)
    rfl rfl rfl
  exact ⟨t, (runSteps_succ (step_start ha rfl hb)).trans hrun, ht⟩

/-- Settles O51: two invocations, the second from what the first leaves. -/
theorem secondStartCompressesAgain : Obligations.SecondStartCompressesAgain := by
  intro s hb ha
  have hwait : ∀ e ∈ List.replicate 96 Event.sequencer, e.waiting = true := fun e he => by
    rw [List.eq_of_mem_replicate he]; rfl
  have hcount : 96 ≤ (List.replicate 96 Event.sequencer).count .sequencer := List.count_replicate_self.ge
  obtain ⟨t, hrun, ⟨hv, hm, hbt, -⟩, hat, -⟩ := runSteps_start_wait hwait hcount hb ha
  obtain ⟨u, hrun', ⟨hv', hm', hbu, hdu⟩, -, -⟩ :=
    runSteps_start_wait hwait hcount (rest := []) hbt (by rw [hat, List.append_nil])
  rw [List.length_replicate] at hrun hrun'
  exact ⟨u, t.v, (runSteps_add hrun).trans hrun', hv, hm ▸ hv', hm'.trans hm, hbu, hdu⟩

/-! ### Step 6 of the protocol: reading -/

/-- Reads one after the other hand the host the window's values and leave the core. -/
theorem runSteps_reads (as : List HostAddr) {s : State} (ha : s.agenda = as.map fun a => .host (.read a)) :
    runSteps as.length s = .next (s.setHost [] (s.replies ++ as.map fun a => ⟨a, hread s a⟩)) := by
  induction as generalizing s with
  | nil =>
    have hself : s.setHost [] s.replies = s := congrArg (s.setHost · s.replies) ha.symm
    rw [List.map_nil, List.append_nil, hself]
    rfl
  | cons a as ih =>
    have hrun := ih (s := s.setHost (as.map fun a => .host (.read a)) (s.replies ++ [⟨a, hread s a⟩])) rfl
    rw [List.map_cons, List.append_cons]
    exact (runSteps_succ (step_read ha)).trans hrun

/-- The last poll and the sixteen reads of a completed invocation (spec/45_host_commands.md R213). -/
theorem runSteps_readState {s : State} (hb : s.busy = false) (hd : s.done = true)
    (ha : s.agenda = pollCmd :: readState) :
    runSteps 17 s = .next (s.setHost [] (s.replies ++ [⟨0x21, 2⟩] ++ stateReplies s.v)) := by
  have hstatus : hread s 0x21 = 2 := (statusWord_eq_ofNat s).trans (by rw [hb, hd]; rfl)
  have hwords : stateReplies s.v =
      ((List.finRange 16).map fun i => BitVec.ofNat 6 i.val).map fun a => ⟨a, hread s a⟩ := by
    simp only [stateReplies, List.map_map]
    exact List.map_congr_left fun i _ => by simp only [Function.comp, hread_v]; rfl
  have hrun := runSteps_reads (0x21 :: (List.finRange 16).map fun i => BitVec.ofNat 6 i.val)
    (by rw [ha, List.map_cons, List.map_map]; rfl)
  rw [List.map_cons, hstatus, ← hwords, List.append_cons] at hrun
  exact hrun

/-- Settles O50: the steps of the protocol one after the other; a state and a run carry the number of the step of R213
they end. -/
theorem protocolReturnsCompress : Obligations.ProtocolReturnsCompress := by
  intro s v m load wait hb hload hwait hcount ha
  obtain ⟨s₂, hrun₂, hb₂, ha₂, hq₂, rfl, rfl⟩ := runSteps_load (rest := startCmd :: (wait ++ pollCmd :: readState))
    (s := s.setHost _ (s.replies ++ [⟨0x21, hread s 0x21⟩])) hb hload rfl
  obtain ⟨s₅, hrun₅, ⟨hv, hm, hb₅, hd₅⟩, ha₅, polls, hq₅, hpolls⟩ := runSteps_start_wait hwait hcount hb₂ ha₂
  have hread₆ := runSteps_readState hb₅ hd₅ ha₅
  have hlen : s.agenda.length = load.length + ((wait.length + 1) + 17) + 1 := by
    rw [ha]
    simp [readState]
  have hrun : runSteps s.agenda.length s =
      .next (s₅.setHost [] (s₅.replies ++ [⟨0x21, 2⟩] ++ stateReplies s₅.v)) := by
    rw [hlen, runSteps_succ (step_read ha)]
    exact (runSteps_add hrun₂).trans ((runSteps_add hrun₅).trans hread₆)
  rw [hq₅, hq₂] at hrun
  exact ⟨_, s₅.v, hread s 0x21, polls, hrun, hv, (statusWord_getLsbD_zero s).trans hb, rfl, hpolls, hm, rfl⟩

end Sys2Proof.Machine
end

section
/-! SUPPORT. Exceptions and their absence (spec/60_exceptions.md): nothing faults (R230), and the one race a law-abiding
host can see, the last sequencer step against a poll or a `START` (R235). -/

namespace Sys2Proof.Machine

/-! ### Every event has a next state inside the ROM -/

/-- Inside the ROM the sequencer's turn has a next state: its step, or the stutter of an idle sequencer (log 7). -/
theorem seqTurn_next_of_le {s : State} (hu : s.upc.toNat ≤ 95) : ∃ t, seqTurn s = .next t := by
  cases hb : s.busy with
  | false => exact ⟨s, seqTurn_idle hb⟩
  | true =>
    rw [seqTurn_busy hb]
    exact seqStep_next_of_le hu

/-- A host transaction has a next state in every state. -/
theorem eventTurn_host (c : HostCmd) (s : State) : eventTurn (.host c) s = .next (hostTurn c s) := rfl

/-- Inside the ROM every event has a next state. -/
theorem eventTurn_next_of_le (e : Event) {s : State} (hu : s.upc.toNat ≤ 95) : ∃ t, eventTurn e s = .next t := by
  cases e with
  | sequencer => exact seqTurn_next_of_le hu
  | host c => exact ⟨_, eventTurn_host c s⟩
  | reset => exact ⟨s.applyReset, rfl⟩

/-- Inside the ROM the machine has a next state, whatever the agenda holds. -/
theorem step_next_of_le {s : State} (hu : s.upc.toNat ≤ 95) : ∃ t, step s = .next t := by
  cases ha : s.agenda with
  | nil =>
    rw [step_of_empty ha]
    exact seqTurn_next_of_le hu
  | cons e rest =>
    rw [step_of_event ha]
    exact eventTurn_next_of_le e hu

/-- Settles O12: a well-formed micro-operation runs, a host transaction is total, and of a legal state's bounds the
machine needs only `UPC` <= 95. -/
theorem nothingFaults : Obligations.NothingFaults :=
  ⟨fun _ s hwf => exec_next_of_wellFormed hwf s, fun c s => ⟨_, eventTurn_host c s⟩,
    fun _ ⟨_, hmax, _⟩ => step_next_of_le hmax⟩

/-! ### The last sequencer step -/

/-- What the last sequencer step makes of the core: `UNDIAG`, the micro-operation of `ROM[95]`, and the completion. -/
def State.completed (s : State) : State :=
  (s.clobberScratch.setRows (undiagRows s.rows)).setControl 0 false true

/-- The sequencer's turn at the last ROM entry completes the invocation (spec/44_round_driver.md R182). -/
theorem step_last {s : State} {rest : List Event} (hb : s.busy = true) (hu : s.upc = 95)
    (ha : s.agenda = .sequencer :: rest) : step s = .next (s.setAgenda rest).completed := by
  have hfetch : fetch s.upc = some 0x80 := by rw [hu]; rfl
  have hseq : seqStep (s.setAgenda rest) = .next (advance s.upc _) := seqStep_of hfetch rfl (exec_undiag _)
  rw [hu, advance_last] at hseq
  rw [step_of_event ha]
  exact (seqTurn_busy (by exact hb)).trans hseq

/-- A step that performs a poll hands the host `STATUS` and leaves the core. -/
theorem step_poll {s : State} {rest : List Event} (ha : s.agenda = pollCmd :: rest) :
    step s = .next (s.setHost rest (s.replies ++ [⟨0x21, BitVec.ofNat 64 (2 * s.done.toNat + s.busy.toNat)⟩])) := by
  rw [← statusWord_eq_ofNat]
  exact step_read ha

/-- A step that performs a `START` with `BUSY` = 1 drops it (spec/45_host_commands.md R211). -/
theorem step_start_busy {s : State} {rest : List Event} (ha : s.agenda = startCmd :: rest) (hb : s.busy = true) :
    step s = .next (s.setAgenda rest) :=
  (startBeginsAnInvocation s 1 rest ha rfl).2 hb

/-- Two steps, one after the other. -/
theorem runSteps_two {s t u : State} (h : step s = .next t) (h' : step t = .next u) : runSteps 2 s = .next u :=
  (runSteps_succ h).trans (runSteps_succ h')

section LastStep

variable {s : State} (hb : s.busy = true) (hu : s.upc = 95) (rest : List Event)
include hb hu

/-- A poll before the last step reads `BUSY` = 1. -/
theorem runSteps_poll_last (hd : s.done = false) : runSteps 2 (s.setAgenda (pollCmd :: .sequencer :: rest)) =
    .next (s.completed.setHost rest (s.replies ++ [⟨0x21, 1⟩])) := by
  have hpoll := step_poll (s := s.setAgenda (pollCmd :: .sequencer :: rest)) rfl
  rw [State.setAgenda_done, State.setAgenda_busy, hd, hb] at hpoll
  exact runSteps_two hpoll (step_last hb hu rfl)

/-- A poll after the last step reads `DONE` = 1. -/
theorem runSteps_last_poll : runSteps 2 (s.setAgenda (.sequencer :: pollCmd :: rest)) =
    .next (s.completed.setHost rest (s.replies ++ [⟨0x21, 2⟩])) :=
  runSteps_two (step_last hb hu rfl) (step_poll rfl)

/-- A `START` before the last step is dropped. -/
theorem runSteps_start_last : runSteps 2 (s.setAgenda (startCmd :: .sequencer :: rest)) =
    .next (s.completed.setAgenda rest) :=
  runSteps_two (step_start_busy rfl hb) (step_last (s := s.setAgenda (.sequencer :: rest)) hb hu rfl)

/-- A `START` after the last step is accepted. -/
theorem runSteps_last_start : runSteps 2 (s.setAgenda (.sequencer :: startCmd :: rest)) =
    .next ((s.completed.setAgenda rest).setControl 0 true false) :=
  runSteps_two (step_last hb hu rfl) (step_start rfl rfl rfl)

end LastStep

/-- Settles O42: the four orders, each of two steps; both polls leave `State.completed`, and so do both `START`s but for
the control bits of the accepted one. -/
theorem lastStepAgainstPollOrStart : Obligations.LastStepAgainstPollOrStart := fun _ rest hb hd hu =>
  ⟨⟨_, _, runSteps_poll_last hb hu rest hd, runSteps_last_poll hb hu rest, rfl, rfl, rfl⟩,
    _, _, runSteps_start_last hb hu rest, runSteps_last_start hb hu rest, rfl, rfl, rfl, rfl, rfl, rfl⟩

end Sys2Proof.Machine
end

section
/-! SUPPORT. The host hazard (spec/70_reset_and_hazards.md R264): the reads left to a law-abiding host while `BUSY` = 1. -/

namespace Sys2Proof.Machine

/-- Lawful while `BUSY` = 1 are the reads of every address but those of `V`. -/
theorem lawfulWhileBusy_read_iff (a : HostAddr) :
    (HostCmd.read a).lawfulWhileBusy = true ↔ ¬ a ≤ Config.vLast := by
  revert a; decide

/-- `STATUS` shows `BUSY` and `DONE` and nothing else of the machine. -/
theorem statusWord_congr {s t : State} (hbusy : s.busy = t.busy) (hdone : s.done = t.done) :
    statusWord s = statusWord t := by
  rw [statusWord_eq_ofNat, statusWord_eq_ofNat, hbusy, hdone]

/-- Past the `V` addresses the window shows the message, `BUSY` and `DONE` and nothing else of the machine. -/
theorem hread_congr_of_not_v {s t : State} {a : HostAddr} (ha : ¬ a ≤ Config.vLast) (hmsg : s.msg = t.msg)
    (hbusy : s.busy = t.busy) (hdone : s.done = t.done) : hread s a = hread t a := by
  unfold hread
  rw [if_neg ha, if_neg ha, hmsg, statusWord_congr hbusy hdone]

/-- Settles O43: a lawful read is of no `V` address, and the window past those shows no intermediate state. -/
theorem lawfulReadsShowNoIntermediateState : Obligations.LawfulReadsShowNoIntermediateState :=
  fun _ _ a ha => hread_congr_of_not_v ((lawfulWhileBusy_read_iff a).mp ha)

end Sys2Proof.Machine
end
